-- ==== Sys2Proof/Word.lean ====
section
/-! DEFINITION. The two widths every other file uses: the 16-bit action word (spec/30_encoding.md R110) and the
8-bit argument, sample and compare value (spec/00_scope.md R7: CMP_BITS = SAMPLE_BITS = 8). -/

namespace Sys2Proof

/-- An action word: `w[15:12]` UNIT, `w[11:8]` OP, `w[7:0]` ARG (30_encoding.md R110). -/
abbrev Word := BitVec 16

/-- An 8-bit value: an ARG, an analog sample, a compare value (10_state.md R46, R51, R56). -/
abbrev Byte := BitVec 8

end Sys2Proof
end

