-- ==== Sys2Proof/Config.lean ====
section
/-! DEFINITION. The configuration record `Cfg` of spec/00_scope.md R7, its standard value, and the free values: the
OPEN parameters the spec gives no value for, the draws of the launch state, the values of cells a reset leaves unread,
and the schedule. A free value is `opaque`, without a body, so nothing can be proved of its value. -/

namespace Sys2Proof

/-- The register names of 10_state.md R62 and the two data cells of 20_memory.md R80 (names only: R81 gives no
addresses). -/
inductive RegName where
  | cpusr | rstcause | wdtctl | clkctl | tctl | tie | tcnt | ttop | tcmp | amux | actl | aresh
  | gdir | gout | gpue | gpin | sampleCell | prevCell
  deriving DecidableEq, Repr

/-- OPEN `F_SRC`, the source clock (00_scope.md R7, D28): timing only, no rule reads it. Free value, log entry 2. -/
opaque Config.fSrc : Nat

/-- OPEN `CLK_DIV_CFG`, the divider the initialiser writes (00_scope.md R7, D28). Free value, log entry 2. -/
opaque Config.clkDivCfg : BitVec 4

/-- OPEN `CLK_DIV_RESET`, the divider after a reset (10_state.md R66, D28). Free value, log entry 2. -/
opaque Config.clkDivReset : BitVec 4

/-- OPEN `ADC_REF` (00_scope.md R7, D14). Free value, log entry 2. -/
opaque Config.adcRef : BitVec 2

/-- OPEN `ADC_CH` (00_scope.md R7, D14). Free value, log entry 2. -/
opaque Config.adcCh : BitVec 4

/-- OPEN `ADC_PS` (00_scope.md R7, D14). Free value, log entry 2. -/
opaque Config.adcPs : BitVec 3

/-- OPEN `WDT_POR_EN` (00_scope.md R7, D24): whether power-on arms the watchdog. Free value, log entry 2. -/
opaque Config.wdtPorEn : Bool

/-- OPEN `REG_ADDR` (20_memory.md R81, D31): the addresses on the original device, which no rule reads. Free value,
log entry 2. -/
opaque Config.regAddr : RegName → Nat

/-- The draw `SAMPLE` holds at launch (10_state.md R67, D21). Free value, log entry 9. -/
opaque Config.launchSample : Byte

/-- The launch's switch contact, true = open (10_state.md R58, R67). Free value, log entry 9. -/
opaque Config.launchContactOpen : Bool

/-- What the temporary `sw` holds after the n-th draw of a reset word (10_state.md R66: unread). Free value, log entry 8. -/
opaque Config.freeSw : Nat → Bool

/-- What the temporary `t` holds after the n-th draw of a reset word (10_state.md R66: unread). Free value, log entry 8. -/
opaque Config.freeT : Nat → Byte

/-- What the cell `PREV` holds after the n-th draw of a reset word (10_state.md R66: unread). Free value, log entry 8. -/
opaque Config.freePrev : Nat → Bool

/-- Which of the enabled words the n-th free step takes (10_state.md R31: any of them). Free value, log entry 5. -/
opaque Config.scheduleKind : Nat → Nat

/-- The argument the environment draws for the n-th free step (30_encoding.md R114). Free value, log entry 5. -/
opaque Config.scheduleArg : Nat → Byte

/-- The configuration record of 00_scope.md R7 (and `CLK_DIV_RESET` of D28). A machine holds one in its state and no
step changes it (log entry 1). Fields that are timing only or that no rule reads say so. -/
structure Cfg where
  /-- `PWM_LOW`: compare value of the 1.0 ms pulse -/
  pwmLow : Nat
  /-- `PWM_HIGH`: compare value of the 2.0 ms pulse -/
  pwmHigh : Nat
  /-- `PWM_CENTER`: compare value of the 1.5 ms pulse -/
  pwmCenter : Nat
  /-- `W_T`: width of the counter and top registers -/
  wT : Nat
  /-- `PWM_TOP`: the counter's top value -/
  pwmTop : Nat
  /-- `PWM_PRESCALE`: system clocks per tick (timing only) -/
  pwmPrescale : Nat
  /-- `CMP_BUFFERED`: a compare write takes effect at the next period start -/
  cmpBuffered : Bool
  /-- `F_CPU` in Hz (timing only) -/
  fCpu : Nat
  /-- `F_SRC` in Hz (timing only) -/
  fSrc : Nat
  /-- `CLK_DIV_CFG`: what IN.CLK writes -/
  clkDivCfg : BitVec 4
  /-- `CLK_DIV_RESET`: the divider after a reset -/
  clkDivReset : BitVec 4
  /-- `ADC_BITS`: converter resolution; only the 8 most significant bits are state -/
  adcBits : Nat
  /-- `ADC_REF` -/
  adcRef : BitVec 2
  /-- `ADC_CH` -/
  adcCh : BitVec 4
  /-- `ADC_PS` -/
  adcPs : BitVec 3
  /-- `N_PINS`: pins of the GPIO port -/
  nPins : Nat
  /-- `PWM_PIN` -/
  pwmPin : Nat
  /-- `SW_PIN` -/
  swPin : Nat
  /-- `AIN_PIN` -/
  ainPin : Nat
  /-- `WDT_POR_EN` -/
  wdtPorEn : Bool
  /-- `WDT_OFF_NEEDS_RCF_CLEAR` -/
  wdtOffNeedsRcfClear : Bool
  /-- `SETTLE_MS` (timing only) -/
  settleMs : Nat
  /-- `WDT_FAST_MS` (timing only) -/
  wdtFastMs : Nat
  deriving DecidableEq, Repr

/-- `PWM_RANGE = PWM_HIGH - PWM_LOW` (00_scope.md R7; 90_conflicts.md C1: 123, not the source's 63). -/
def Cfg.pwmRange (c : Cfg) : Nat := c.pwmHigh - c.pwmLow

/-- `CMP_BITS`, the width of the compare value (00_scope.md R7): 8, "an 8-bit unsigned value"; the state's types fix it
(log entry 12). -/
def Cfg.cmpBits (_ : Cfg) : Nat := 8

/-- `SAMPLE_BITS`, the width of the analog sample (00_scope.md R7): 8; the state's types fix it (log entry 12). -/
def Cfg.sampleBits (_ : Cfg) : Nat := 8

/-- The configuration this hardware takes: the source's and the decisions' values, the spec's defaults where R7 gives
one (log entry 3), and the free values where a parameter is OPEN without a default (log entry 2). -/
def Cfg.standard : Cfg :=
  { pwmLow := 123, pwmHigh := 246, pwmCenter := 184, wT := 16, pwmTop := 2499, pwmPrescale := 64
    cmpBuffered := true, fCpu := 8000000, fSrc := Config.fSrc, clkDivCfg := Config.clkDivCfg
    clkDivReset := Config.clkDivReset, adcBits := 10, adcRef := Config.adcRef, adcCh := Config.adcCh
    adcPs := Config.adcPs, nPins := 8, pwmPin := 0, swPin := 1, ainPin := 2
    wdtPorEn := Config.wdtPorEn, wdtOffNeedsRcfClear := true, settleMs := 2000, wdtFastMs := 15 }

end Sys2Proof
end

