-- ==== Sys2Proof/Syntax.lean ====
section
/-! DEFINITION. The action words as syntax: one constructor per row of spec/opcode_table.json (30_encoding.md R112),
and the reasons a word or a configuration has no meaning (10_state.md R61). -/

namespace Sys2Proof

/-- The operations of 30_encoding.md R112. The argument is the word's ARG field, a value the environment chose (R114). -/
inductive Instr where
  /-- SU.CLI (40_startup.md R140) -/
  | suCli
  /-- SU.CLRRC (40_startup.md R141) -/
  | suClrrc
  /-- SU.WDOFF (40_startup.md R142) -/
  | suWdoff
  /-- IN.CLK (41_peripheral_init.md R160) -/
  | inClk
  /-- IN.TCNT0 (41_peripheral_init.md R161) -/
  | inTcnt0
  /-- IN.TCMP (41_peripheral_init.md R162) -/
  | inTcmp
  /-- IN.TTOP (41_peripheral_init.md R163) -/
  | inTtop
  /-- IN.TMODE (41_peripheral_init.md R164) -/
  | inTmode
  /-- IN.TIRQ (41_peripheral_init.md R165) -/
  | inTirq
  /-- IN.AMUX (41_peripheral_init.md R166) -/
  | inAmux
  /-- IN.ACTL (41_peripheral_init.md R167) -/
  | inActl
  /-- IN.GDIR (41_peripheral_init.md R168) -/
  | inGdir
  /-- IN.GPUE (41_peripheral_init.md R169) -/
  | inGpue
  /-- ML.SEI (41_peripheral_init.md R170) -/
  | mlSei
  /-- ML.SETTLE (45_control_loop.md R300) -/
  | mlSettle
  /-- ML.SEED (45_control_loop.md R301) -/
  | mlSeed
  /-- ML.READ (45_control_loop.md R302) -/
  | mlRead
  /-- ML.CENTER (45_control_loop.md R303) -/
  | mlCenter
  /-- ML.MREAD (45_control_loop.md R304) -/
  | mlMread
  /-- ML.SKIP (45_control_loop.md R305) -/
  | mlSkip
  /-- ML.MWRITE (45_control_loop.md R306) -/
  | mlMwrite
  /-- ML.RECORD (45_control_loop.md R307) -/
  | mlRecord
  /-- IS.ENTER (60_exceptions.md R350) -/
  | isEnter
  /-- IS.CAPTURE (43_adc_sample_capture.md R240) -/
  | isCapture
  /-- IS.RETURN (60_exceptions.md R351) -/
  | isReturn
  /-- TM.TICK (42_pwm_timer.md R191) -/
  | tmTick
  /-- AD.DONE (43_adc_sample_capture.md R230); the 8 most significant bits of the completed conversion -/
  | adDone (vv : Byte)
  /-- IO.LATCH (44_gpio_latch.md R272); bit `i` is the level pin `i` reads if its pad floats -/
  | ioLatch (ff : Byte)
  /-- EV.SW (44_gpio_latch.md R274); 0 closes the switch, 1 opens it -/
  | evSw (b : Byte)
  /-- RS.POR (70_reset_and_hazards.md R402); what `SAMPLE` holds after the reset -/
  | rsPor (v : Byte)
  /-- RS.WDT (70_reset_and_hazards.md R404); what `SAMPLE` holds after the reset -/
  | rsWdt (v : Byte)
  /-- RS.OTH (70_reset_and_hazards.md R405); what `SAMPLE` holds after the reset -/
  | rsOth (v : Byte)
  deriving DecidableEq, Repr

/-- The refusal reasons of 10_state.md R61. A refusal means that the model gives the word or the configuration no
meaning, not that the hardware faults. -/
inductive RefusalReason where
  /-- the unit/op pair is not in the opcode table (30_encoding.md R116) -/
  | reservedWord
  /-- an operation without an argument has a nonzero ARG (30_encoding.md R117) -/
  | nonzeroArg
  /-- an argument outside the operation's legal set (30_encoding.md R117) -/
  | badArg
  /-- the configuration fails 00_scope.md R8 -/
  | illFormedConfig
  deriving DecidableEq, Repr

/-- What decoding a word gives: an operation with its ARG, or a refusal reason (30_encoding.md R118). -/
inductive Decoded where
  | ok (i : Instr)
  | refuse (r : RefusalReason)
  deriving DecidableEq, Repr

end Sys2Proof
end

