-- ==== Sys2Proof/WellFormed.lean ====
section
/-! DEFINITION. Which instructions and which configurations have a meaning: the legal argument sets of
spec/30_encoding.md R117 and the well-formedness clauses of spec/00_scope.md R8. -/

namespace Sys2Proof

/-- The argument is in the operation's legal set, on a port of `nPins` pins (30_encoding.md R117): EV.SW takes 0 or 1,
IO.LATCH has bits `nPins..7` zero, every other argument is free. -/
def Instr.wf (nPins : Nat) : Instr → Bool
  | .ioLatch ff => decide (ff.toNat < 2 ^ nPins)
  | .evSw b => decide (b.toNat ≤ 1)
  | .suCli | .suClrrc | .suWdoff | .inClk | .inTcnt0 | .inTcmp | .inTtop | .inTmode | .inTirq | .inAmux | .inActl
  | .inGdir | .inGpue | .mlSei | .mlSettle | .mlSeed | .mlRead | .mlCenter | .mlMread | .mlSkip | .mlMwrite
  | .mlRecord | .isEnter | .isCapture | .isReturn | .tmTick => true
  | .adDone _ | .rsPor _ | .rsWdt _ | .rsOth _ => true

/-- A configuration is well-formed (00_scope.md R8). -/
def Cfg.wf (c : Cfg) : Bool :=
  decide (c.pwmLow ≤ c.pwmCenter) && decide (c.pwmCenter ≤ c.pwmHigh) && decide (c.pwmHigh ≤ 255)
    && decide (c.pwmHigh < c.pwmTop) && decide (c.pwmTop ≤ 2 ^ c.wT - 1)
    && decide (1 ≤ c.pwmPrescale) && decide (8 ≤ c.adcBits)
    && decide (1 ≤ c.nPins) && decide (c.nPins ≤ 8)
    && decide (c.pwmPin ≠ c.swPin) && decide (c.pwmPin ≠ c.ainPin) && decide (c.swPin ≠ c.ainPin)
    && decide (c.pwmPin < c.nPins) && decide (c.swPin < c.nPins) && decide (c.ainPin < c.nPins)

end Sys2Proof
end

