-- ==== Sys2Proof/Decode.lean ====
section
/-! DEFINITION. Decoding an action word, total on all 65536 words (spec/30_encoding.md R110-R118), and the encoder,
written from the same table. -/

namespace Sys2Proof

/-- `w[15:12]` (30_encoding.md R110). -/
def unitOf (w : Word) : BitVec 4 := w.extractLsb' 12 4

/-- `w[11:8]` (30_encoding.md R110). -/
def opOf (w : Word) : BitVec 4 := w.extractLsb' 8 4

/-- `w[7:0]` (30_encoding.md R110). -/
def argOf (w : Word) : Byte := w.extractLsb' 0 8

/-- The operation map of 30_encoding.md R112: unit, op and argument to the operation; every other pair is reserved
(R111, R113). -/
def lookup (u o : Nat) (a : Byte) : Option Instr :=
  match u, o with
  | 0x1, 0x0 => some .suCli
  | 0x1, 0x1 => some .suClrrc
  | 0x1, 0x2 => some .suWdoff
  | 0x2, 0x0 => some .inClk
  | 0x2, 0x1 => some .inTcnt0
  | 0x2, 0x2 => some .inTcmp
  | 0x2, 0x3 => some .inTtop
  | 0x2, 0x4 => some .inTmode
  | 0x2, 0x5 => some .inTirq
  | 0x2, 0x6 => some .inAmux
  | 0x2, 0x7 => some .inActl
  | 0x2, 0x8 => some .inGdir
  | 0x2, 0x9 => some .inGpue
  | 0x3, 0x0 => some .mlSei
  | 0x3, 0x1 => some .mlSettle
  | 0x3, 0x2 => some .mlSeed
  | 0x3, 0x3 => some .mlRead
  | 0x3, 0x4 => some .mlCenter
  | 0x3, 0x5 => some .mlMread
  | 0x3, 0x6 => some .mlSkip
  | 0x3, 0x7 => some .mlMwrite
  | 0x3, 0x8 => some .mlRecord
  | 0x4, 0x0 => some .isEnter
  | 0x4, 0x1 => some .isCapture
  | 0x4, 0x2 => some .isReturn
  | 0x5, 0x0 => some .tmTick
  | 0x6, 0x0 => some (.adDone a)
  | 0x7, 0x0 => some (.ioLatch a)
  | 0x8, 0x0 => some (.evSw a)
  | 0x9, 0x0 => some (.rsPor a)
  | 0x9, 0x1 => some (.rsWdt a)
  | 0x9, 0x2 => some (.rsOth a)
  | _, _ => none

/-- The six operations whose word carries an argument (30_encoding.md R112, R114). -/
def Instr.takesArg : Instr → Bool
  | .adDone _ | .ioLatch _ | .evSw _ | .rsPor _ | .rsWdt _ | .rsOth _ => true
  | .suCli | .suClrrc | .suWdoff | .inClk | .inTcnt0 | .inTcmp | .inTtop | .inTmode | .inTirq | .inAmux | .inActl
  | .inGdir | .inGpue | .mlSei | .mlSettle | .mlSeed | .mlRead | .mlCenter | .mlMread | .mlSkip | .mlMwrite
  | .mlRecord | .isEnter | .isCapture | .isReturn | .tmTick => false

/-- `decode(w)` of 30_encoding.md R118, on a port of `nPins` pins. -/
def decode (nPins : Nat) (w : Word) : Decoded :=
  match lookup (unitOf w).toNat (opOf w).toNat (argOf w) with
  | none => .refuse .reservedWord
  | some i =>
    if i.takesArg = false ∧ argOf w ≠ 0 then .refuse .nonzeroArg
    else if i.wf nPins then .ok i
    else .refuse .badArg

/-- The UNIT field of each operation's word (30_encoding.md R111, R112). -/
def Instr.unit : Instr → BitVec 4
  | .suCli | .suClrrc | .suWdoff => 0x1
  | .inClk | .inTcnt0 | .inTcmp | .inTtop | .inTmode | .inTirq | .inAmux | .inActl | .inGdir | .inGpue => 0x2
  | .mlSei | .mlSettle | .mlSeed | .mlRead | .mlCenter | .mlMread | .mlSkip | .mlMwrite | .mlRecord => 0x3
  | .isEnter | .isCapture | .isReturn => 0x4
  | .tmTick => 0x5
  | .adDone _ => 0x6
  | .ioLatch _ => 0x7
  | .evSw _ => 0x8
  | .rsPor _ | .rsWdt _ | .rsOth _ => 0x9

/-- The OP field of each operation's word (30_encoding.md R112). -/
def Instr.op : Instr → BitVec 4
  | .suCli | .inClk | .mlSei | .isEnter | .tmTick | .adDone _ | .ioLatch _ | .evSw _ | .rsPor _ => 0x0
  | .suClrrc | .inTcnt0 | .mlSettle | .isCapture | .rsWdt _ => 0x1
  | .suWdoff | .inTcmp | .mlSeed | .isReturn | .rsOth _ => 0x2
  | .inTtop | .mlRead => 0x3
  | .inTmode | .mlCenter => 0x4
  | .inTirq | .mlMread => 0x5
  | .inAmux | .mlSkip => 0x6
  | .inActl | .mlMwrite => 0x7
  | .inGdir | .mlRecord => 0x8
  | .inGpue => 0x9

/-- The ARG field of each operation's word: its argument, or 0 (30_encoding.md R112, R114). -/
def Instr.arg : Instr → Byte
  | .adDone a | .ioLatch a | .evSw a | .rsPor a | .rsWdt a | .rsOth a => a
  | .suCli | .suClrrc | .suWdoff | .inClk | .inTcnt0 | .inTcmp | .inTtop | .inTmode | .inTirq | .inAmux | .inActl
  | .inGdir | .inGpue | .mlSei | .mlSettle | .mlSeed | .mlRead | .mlCenter | .mlMread | .mlSkip | .mlMwrite
  | .mlRecord | .isEnter | .isCapture | .isReturn | .tmTick => 0

/-- The action word of an instruction: `{UNIT, OP, ARG}` (30_encoding.md R110). -/
def encode (i : Instr) : Word := i.unit ++ i.op ++ i.arg

/-- The instruction the decoder reads from a word given as spec/opcode_table.json numbers its bits, on the standard
port of 8 pins; none where the decoder refuses. A word is one 16-bit action word, so there is no byte order
(20_memory.md R85). -/
def decodeTableWord (nbits w : Nat) : Option Instr :=
  match decode Cfg.standard.nPins (BitVec.ofNat 16 (w % 2 ^ nbits)) with
  | .ok i => some i
  | .refuse _ => none

end Sys2Proof
end

