-- ==== Sys2Proof/Machine/State.lean ====
section
/-! DEFINITION. The state of the block: every field spec/10_state.md gives it (R34-R61), the configuration it carries,
the pending action words, and the reasons a step can end without a next state. Plain data. -/

namespace Sys2Proof.Machine

/-- The phases of the fixed main program, the values of `mpc` (10_state.md R34). -/
inductive Phase where
  | suCli | suClrrc | suWdoff
  | inClk | inTcnt0 | inTcmp | inTtop | inTmode | inTirq | inAmux | inActl | inGdir | inGpue
  | sei | settle | seed | read | decide | mwrite | record
  /-- the codes 20..31, unused and unreachable: no main-context word is enabled (R34, 93_implementation_defined.md) -/
  | unused (k : Fin 12)
  deriving DecidableEq, Repr

/-- The CPU's context (10_state.md R35). -/
inductive Context where
  | main | isr
  deriving DecidableEq, Repr

/-- The interrupt context's program counter (10_state.md R36). -/
inductive HandlerPhase where
  | capture | ret
  deriving DecidableEq, Repr

/-- The switch contact (10_state.md R58). -/
inductive Contact where
  | closedContact | openContact
  deriving DecidableEq, Repr

/-- The level on a pin (44_gpio_latch.md R270): 0, 1 or FLOAT. -/
inductive Level where
  | low | high | floating
  deriving DecidableEq, Repr

/-- The reasons of the model's sticky fault mark (10_state.md R60). -/
inductive FaultReason where
  /-- TM.TICK with the clock running and a mode other than PWM_TOP (42_pwm_timer.md R191) -/
  | timerModeUnmodelled
  /-- TM.TICK with a reserved value of `tmode`, `tcom` or `tcs` (42_pwm_timer.md R197) -/
  | timerFieldReserved
  /-- IS.CAPTURE with `alar = 0` (43_adc_sample_capture.md R240) -/
  | adcAlignmentUnmodelled
  deriving DecidableEq, Repr

/-- Why the machine has no next state without refusing anything. -/
inductive Fault where
  /-- Raised by every meaning whose guard is false: the word has no step in this state (00_scope.md R11; "it is not a
  fault, it simply cannot occur in that state"), so this is a stuck state and neither mark is set. Safe. -/
  | noStep
  /-- Raised by a step of a state whose sticky fault mark is set: no further step exists (10_state.md R60). Safe. -/
  | faultMarked (r : FaultReason)
  deriving DecidableEq, Repr

/-- Why the machine gives a step no meaning. -/
inductive Refusal where
  /-- Raised by an arm of exec without a meaning; no arm of this model raises it. Safe. -/
  | notModelled (mnemonic : String)
  /-- Raised by a step of a state whose sticky refusal mark is set: no further step exists (10_state.md R61). Safe. -/
  | refusalMarked (r : RefusalReason)
  deriving DecidableEq, Repr

/-- The state `S` of 10_state.md R31. `cfg`, `trace` and `draws` are the model's own fields (log entries 1, 4, 23); all
others are the spec's. -/
structure State where
  /-- the configuration record (00_scope.md R7); no step writes it -/
  cfg : Cfg
  /-- the action words still to be taken, the next one first (30_encoding.md R114, 70_reset_and_hazards.md R451) -/
  trace : List Word
  /-- how many free values have been drawn so far -/
  draws : Nat
  /-- main context's program counter (R34) -/
  mpc : Phase
  /-- current context (R35) -/
  ctx : Context
  /-- interrupt context's program counter (R36) -/
  ipc : HandlerPhase
  /-- global interrupt enable (R37) -/
  gie : Bool
  /-- temporary: the Switch State of this iteration, true = CENTER (R38) -/
  sw : Bool
  /-- temporary: the sample read in this iteration (R38) -/
  t : Byte
  /-- reset-cause flags: bit 0 por, bit 1 oth, bit 2 wdt (R39) -/
  rcf : BitVec 3
  /-- watchdog armed (R40) -/
  wdtEn : Bool
  /-- watchdog timeout select (R40) -/
  wdtTo : BitVec 3
  /-- system clock scaler (R41) -/
  clkdiv : BitVec 4
  /-- timer mode (R42) -/
  tmode : BitVec 2
  /-- compare-output mode (R42) -/
  tcom : BitVec 2
  /-- clock select (R42) -/
  tcs : BitVec 3
  /-- timer interrupt enables (R43) -/
  tie : BitVec 2
  /-- counter, below `2 ^ W_T` (R44) -/
  tcnt : Nat
  /-- top value, below `2 ^ W_T` (R45) -/
  ttop : Nat
  /-- compare register as software sees it (R46) -/
  tcmp : Byte
  /-- compare value in effect (R47) -/
  tcmpa : Byte
  /-- compare-output latch (R48) -/
  toc : Bool
  /-- ADC reference select (R49) -/
  aref : BitVec 2
  /-- ADC input channel (R49) -/
  ach : BitVec 4
  /-- ADC result left-adjusted (R49) -/
  alar : Bool
  /-- converter enabled (R50) -/
  aen : Bool
  /-- conversion in progress (R50) -/
  arun : Bool
  /-- free-running triggering (R50) -/
  aate : Bool
  /-- conversion-complete flag (R50) -/
  aif : Bool
  /-- conversion-complete interrupt enable (R50) -/
  aie : Bool
  /-- ADC clock division (R50) -/
  aps : BitVec 3
  /-- sample register (R51) -/
  aresh : Byte
  /-- direction register, bits `N_PINS..7` zero (R52) -/
  gdir : Byte
  /-- output-value register, bits `N_PINS..7` zero (R53) -/
  gout : Byte
  /-- pull-up enable register, bits `N_PINS..7` zero (R54) -/
  gpue : Byte
  /-- input latch, bits `N_PINS..7` zero (R55) -/
  gpin : Byte
  /-- the cell SAMPLE (R56) -/
  sample : Byte
  /-- the cell PREV, true = CENTER (R57) -/
  prev : Bool
  /-- the switch contact, of the environment (R58) -/
  swc : Contact
  /-- sticky fault mark (R60) -/
  fault : Option FaultReason
  /-- sticky refusal mark (R61) -/
  refused : Option RefusalReason
  deriving DecidableEq, Repr

/-- What one step answers. -/
abbrev Result := Host.Outcome State Fault Refusal

/-- The launch state of a configuration, the sample draw `v` and the switch contact (10_state.md R66, R67): the state
after a power-on reset. A configuration that is not well-formed has no launch state: its mark is set (00_scope.md R8,
10_state.md R61). The temporaries and PREV, which the spec leaves unread, are zero (log entry 8). -/
def State.launch (cfg : Cfg) (v : Byte) (contact : Contact) : State :=
  { cfg := cfg, trace := [], draws := 0
    mpc := .suCli, ctx := .main, ipc := .capture, gie := false, sw := false, t := 0
    rcf := 0b001, wdtEn := cfg.wdtPorEn, wdtTo := 0, clkdiv := cfg.clkDivReset
    tmode := 0, tcom := 0, tcs := 0, tie := 0, tcnt := 0, ttop := 0, tcmp := 0, tcmpa := 0, toc := false
    aref := 0, ach := 0, alar := false, aen := false, arun := false, aate := false, aif := false, aie := false
    aps := 0, aresh := 0, gdir := 0, gout := 0, gpue := 0, gpin := 0
    sample := v, prev := false, swc := contact, fault := none
    refused := if cfg.wf then none else some .illFormedConfig }

/-- The machine right after reset: the launch state of the standard configuration, with the launch's draws free
(10_state.md R67, log entry 9) and no word placed. -/
def State.reset : State :=
  State.launch Cfg.standard Config.launchSample
    (if Config.launchContactOpen then .openContact else .closedContact)

end Sys2Proof.Machine
end

