-- ==== Sys2Proof/Machine/Operands.lean ====
section
/-! DEFINITION. What the operations compute from the configuration and the state they read: the constant operands of
spec/30_encoding.md R115, the scaling function (45_control_loop.md R308), the switch decode (44_gpio_latch.md R280),
the pad levels and what the latch samples of them (44_gpio_latch.md R270, R272). -/

namespace Sys2Proof.Machine

/-- The code of a phase (10_state.md R34). -/
def Phase.code : Phase → Nat
  | .suCli => 0 | .suClrrc => 1 | .suWdoff => 2
  | .inClk => 3 | .inTcnt0 => 4 | .inTcmp => 5 | .inTtop => 6 | .inTmode => 7 | .inTirq => 8 | .inAmux => 9
  | .inActl => 10 | .inGdir => 11 | .inGpue => 12
  | .sei => 13 | .settle => 14 | .seed => 15 | .read => 16 | .decide => 17 | .mwrite => 18 | .record => 19
  | .unused k => 20 + k.val

/-- `tmode` 1, PWM_TOP (10_state.md R42). -/
def tmodePwmTop : BitVec 2 := 1

/-- `tcom` 1, NONINV (10_state.md R42). -/
def tcomNoninv : BitVec 2 := 1

/-- `tcs` 1, running (10_state.md R42). -/
def tcsRunning : BitVec 3 := 1

/-- A reserved value of `tmode`, `tcom` or `tcs` (10_state.md R42, 42_pwm_timer.md R197). -/
def reservedTimerField (s : State) : Bool :=
  decide (2 ≤ s.tmode.toNat) || decide (2 ≤ s.tcom.toNat) || decide (2 ≤ s.tcs.toNat)

/-- `bit(i)` of 00_scope.md R9, on an 8-bit register. -/
def bit (i : Nat) : Byte := BitVec.ofNat 8 (2 ^ i)

/-- The bits of the pins `0 .. n-1`. -/
def pinMask (n : Nat) : Byte := BitVec.ofNat 8 (2 ^ n - 1)

/-- `PWM_CENTER` as the 8-bit value WriteCMP takes (42_pwm_timer.md R190). -/
def centerByte (c : Cfg) : Byte := BitVec.ofNat 8 c.pwmCenter

/-- `scale(s) = PWM_LOW + (s * (PWM_HIGH - PWM_LOW)) div 255`, computed on naturals (45_control_loop.md R308). -/
def scale (c : Cfg) (x : Byte) : Byte :=
  BitVec.ofNat 8 (c.pwmLow + x.toNat * (c.pwmHigh - c.pwmLow) / 255)

/-- `SwitchState(gpin) = gpin[SW_PIN]`, true = CENTER: the latch masked with `bit(SW_PIN)` and tested for nonzero
(44_gpio_latch.md R280). -/
def switchState (c : Cfg) (gpin : Byte) : Bool := decide (gpin &&& bit c.swPin ≠ 0)

/-- The level of a driven or pulled pin. -/
def Level.ofBit (b : Bool) : Level := if b then .high else .low

/-- `PAD(i)` (44_gpio_latch.md R270). -/
def pad (i : Nat) (s : State) : Level :=
  if s.gdir.getLsbD i then
    if i = s.cfg.pwmPin ∧ s.tcom = tcomNoninv then Level.ofBit s.toc else Level.ofBit (s.gout.getLsbD i)
  else if i = s.cfg.swPin ∧ s.swc = .closedContact then .low
  else if s.gpue.getLsbD i then .high
  else .floating

/-- The level IO.LATCH samples on pin `i`: the pad's, or the draw's bit where the pad floats (44_gpio_latch.md R272). -/
def latchedLevel (ff : Byte) (s : State) (i : Nat) : Bool :=
  match pad i s with
  | .low => false
  | .high => true
  | .floating => ff.getLsbD i

/-- The register whose bits `0 .. n-1` are the levels `f`, all sampled at once (44_gpio_latch.md R272), the others 0. -/
def gatherBits (f : Nat → Bool) : Nat → Byte
  | 0 => 0
  | n + 1 => gatherBits f n ||| (if f n then bit n else 0)

/-- What `gpin` holds after IO.LATCH (44_gpio_latch.md R272). -/
def latchValue (ff : Byte) (s : State) : Byte := gatherBits (latchedLevel ff s) s.cfg.nPins

/-- The counter after a tick (42_pwm_timer.md R191): 0 after `ttop`, else one more modulo `2 ^ W_T`. -/
def nextCount (s : State) : Nat := if s.tcnt = s.ttop then 0 else (s.tcnt + 1) % 2 ^ s.cfg.wT

end Sys2Proof.Machine
end

