-- ==== Sys2Proof/Machine/Flags.lean ====
section
/-! DEFINITION. The flags of the block (spec/10_state.md R64): the global interrupt enable, the conversion-complete flag
and the three reset-cause flags. There are no arithmetic condition codes, so no operation computes a flag from a result. -/

namespace Sys2Proof.Machine

/-- Write `gie` (10_state.md R37). -/
def State.setGie (s : State) (b : Bool) : State := { s with gie := b }

/-- Write `aif` (10_state.md R50). -/
def State.setAif (s : State) (b : Bool) : State := { s with aif := b }

/-- Write the reset-cause flags (10_state.md R39). -/
def State.setRcf (s : State) (v : BitVec 3) : State := { s with rcf := v }

/-- `rcf.por`, bit 0 (10_state.md R39). -/
def rcfPor : BitVec 3 := 0b001

/-- `rcf.oth`, bit 1 (10_state.md R39). -/
def rcfOth : BitVec 3 := 0b010

/-- `rcf.wdt`, bit 2 (10_state.md R39). -/
def rcfWdt : BitVec 3 := 0b100

/-- `rcf.wdt = 1` (10_state.md R39). -/
def State.wdtCause (s : State) : Bool := s.rcf.getLsbD 2

/-- SU.WDOFF is ineffective: the watchdog's reset-cause flag is set and the configuration says that it must be clear
(40_startup.md R142, D26). -/
def State.wdtLocked (s : State) : Bool := s.cfg.wdtOffNeedsRcfClear && s.wdtCause

/-- A conversion-complete request can enter the interrupt context (60_exceptions.md R350). -/
def State.requestOpen (s : State) : Bool := s.gie && s.aie && s.aif

end Sys2Proof.Machine
end

