-- ==== Sys2Proof/Machine/Guards.lean ====
section
/-! DEFINITION. When each action word has a step: the "enabled when" clauses of spec/30_encoding.md R112 and of the
operation rules, and a small change of state that makes a guard hold (used only to place a word, log entry 4). -/

namespace Sys2Proof.Machine

/-- The main context is about to execute phase `p` (10_state.md R34, R35). -/
def State.atPhase (s : State) (p : Phase) : Bool := decide (s.ctx = .main) && decide (s.mpc = p)

/-- The interrupt context is about to execute phase `p` (10_state.md R35, R36). -/
def State.atHandler (s : State) (p : HandlerPhase) : Bool := decide (s.ctx = .isr) && decide (s.ipc = p)

/-- "Enabled when" of every word (30_encoding.md R112). -/
def enabled : Instr → State → Bool
  | .suCli, s => s.atPhase .suCli
  | .suClrrc, s => s.atPhase .suClrrc
  | .suWdoff, s => s.atPhase .suWdoff
  | .inClk, s => s.atPhase .inClk
  | .inTcnt0, s => s.atPhase .inTcnt0
  | .inTcmp, s => s.atPhase .inTcmp
  | .inTtop, s => s.atPhase .inTtop
  | .inTmode, s => s.atPhase .inTmode
  | .inTirq, s => s.atPhase .inTirq
  | .inAmux, s => s.atPhase .inAmux
  | .inActl, s => s.atPhase .inActl
  | .inGdir, s => s.atPhase .inGdir
  | .inGpue, s => s.atPhase .inGpue
  | .mlSei, s => s.atPhase .sei
  | .mlSettle, s => s.atPhase .settle
  | .mlSeed, s => s.atPhase .seed
  | .mlRead, s => s.atPhase .read
  | .mlCenter, s => s.atPhase .decide && s.sw && !s.prev
  | .mlMread, s => s.atPhase .decide && !s.sw
  | .mlSkip, s => s.atPhase .decide && s.sw && s.prev
  | .mlMwrite, s => s.atPhase .mwrite
  | .mlRecord, s => s.atPhase .record
  | .isEnter, s => decide (s.ctx = .main) && s.requestOpen
  | .isCapture, s => s.atHandler .capture
  | .isReturn, s => s.atHandler .ret
  | .tmTick, s => decide (s.tcs ≠ 0)
  | .adDone _, s => s.aen && s.arun
  | .ioLatch _, _ => true
  | .evSw _, _ => true
  | .rsPor _, _ => true
  | .rsWdt _, s => s.wdtEn
  | .rsOth _, _ => true

/-- The main context brought to phase `p`. -/
def State.toPhase (s : State) (p : Phase) : State := { s with ctx := .main, mpc := p }

/-- The interrupt context brought to phase `p`. -/
def State.toHandler (s : State) (p : HandlerPhase) : State := { s with ctx := .isr, ipc := p }

/-- The state with the fields an operation's guard names set so that the guard holds; where it holds already, nothing
changes. The programs of both contexts are selected by `ctx`, `mpc` and `ipc`, not fetched from memory (20_memory.md
R85), so placing a word for the next step means selecting its phase as well (log entry 4). A stopped timer is started as
IN.TMODE starts it, and a handler begun here finds the left alignment IN.AMUX sets, so that the word has its own effect
and not a mark. No step uses this. -/
def enableFor (i : Instr) (s : State) : State :=
  match i with
  | .suCli => s.toPhase .suCli
  | .suClrrc => s.toPhase .suClrrc
  | .suWdoff => s.toPhase .suWdoff
  | .inClk => s.toPhase .inClk
  | .inTcnt0 => s.toPhase .inTcnt0
  | .inTcmp => s.toPhase .inTcmp
  | .inTtop => s.toPhase .inTtop
  | .inTmode => s.toPhase .inTmode
  | .inTirq => s.toPhase .inTirq
  | .inAmux => s.toPhase .inAmux
  | .inActl => s.toPhase .inActl
  | .inGdir => s.toPhase .inGdir
  | .inGpue => s.toPhase .inGpue
  | .mlSei => s.toPhase .sei
  | .mlSettle => s.toPhase .settle
  | .mlSeed => s.toPhase .seed
  | .mlRead => s.toPhase .read
  | .mlCenter => { s.toPhase .decide with sw := true, prev := false }
  | .mlMread => { s.toPhase .decide with sw := false }
  | .mlSkip => { s.toPhase .decide with sw := true, prev := true }
  | .mlMwrite => s.toPhase .mwrite
  | .mlRecord => s.toPhase .record
  | .isEnter => { s with ctx := .main, gie := true, aie := true, aif := true }
  | .isCapture => if s.atHandler .capture then s else { s.toHandler .capture with alar := true }
  | .isReturn => s.toHandler .ret
  | .tmTick => if s.tcs = 0 then { s with tmode := tmodePwmTop, tcom := tcomNoninv, tcs := tcsRunning } else s
  | .adDone _ => { s with aen := true, arun := true }
  | .rsWdt _ => { s with wdtEn := true }
  | .ioLatch _ | .evSw _ | .rsPor _ | .rsOth _ => s

end Sys2Proof.Machine
end

