-- ==== Sys2Proof/Machine/Ops.lean ====
section
/-! DEFINITION. The operations the meanings share: the marks (spec/10_state.md R60, R61), the step under a guard
(00_scope.md R11), the phase move, the two data cells (20_memory.md R80), the compare write (42_pwm_timer.md R190), the
timer's tick (42_pwm_timer.md R191), interrupt entry and return (60_exceptions.md R350, R351), the common part of every
reset (70_reset_and_hazards.md R401) and taking the next word of the trace. -/

namespace Sys2Proof.Machine

/-- `raise Fault(r)`: set the sticky fault mark (00_scope.md R10, 10_state.md R60). -/
def State.raise (s : State) (r : FaultReason) : State := { s with fault := some r }

/-- `refuse(r)`: set the sticky refusal mark (00_scope.md R10, 10_state.md R61). -/
def State.refuse (s : State) (r : RefusalReason) : State := { s with refused := some r }

/-- A step exists only where neither mark is set (10_state.md R31, R60, R61). -/
def whenUnmarked (s : State) (k : Result) : Result :=
  match s.fault, s.refused with
  | some r, _ => .fault (.faultMarked r)
  | none, some r => .refused (.refusalMarked r)
  | none, none => k

/-- The step of an operation whose writes give `s'`: it exists only where the guard holds (00_scope.md R11). -/
def guarded (i : Instr) (s s' : State) : Result := if enabled i s then .next s' else .fault .noStep

/-- `mpc <- p` (00_scope.md R10). -/
def State.goto (s : State) (p : Phase) : State := { s with mpc := p }

/-- `MemRead(SAMPLE, 1)` (20_memory.md R80, R88): the whole byte. -/
def State.readSample (s : State) : Byte := s.sample

/-- `MemWrite(SAMPLE, 1, v)` (20_memory.md R80, R88): the whole byte. -/
def State.writeSample (s : State) (v : Byte) : State := { s with sample := v }

/-- `MemRead(PREV, 1)` (20_memory.md R80). -/
def State.readPrev (s : State) : Bool := s.prev

/-- `MemWrite(PREV, 1, b)` (20_memory.md R80). -/
def State.writePrev (s : State) (b : Bool) : State := { s with prev := b }

/-- A compare write is held until the next period start (42_pwm_timer.md R190): `CMP_BUFFERED and tmode = PWM_TOP`. -/
def State.cmpHeld (s : State) : Bool := s.cfg.cmpBuffered && decide (s.tmode = tmodePwmTop)

/-- `WriteCMP(v)` (42_pwm_timer.md R190): the one way any operation writes the compare register. -/
def State.writeCmp (s : State) (v : Byte) : State :=
  { s with tcmp := v, tcmpa := if s.cmpHeld then s.tcmpa else v }

/-- The writes of TM.TICK in PWM mode (42_pwm_timer.md R191): at a period start the buffered value is copied and the
output set; else the output is cleared where the counter before the increment equals the compare value in effect. -/
def State.tick (s : State) : State :=
  { s with
    tcnt := nextCount s
    tcmpa := if nextCount s = 0 ∧ s.cfg.cmpBuffered = true then s.tcmp else s.tcmpa
    toc := if nextCount s = 0 then true else if s.tcnt = s.tcmpa.toNat then false else s.toc }

/-- Interrupt entry (60_exceptions.md R350): the request and the global enable are cleared and the interrupt context
starts at CAPTURE; `mpc` stays, which is how the interrupted point is saved. -/
def State.enterInterrupt (s : State) : State :=
  { (s.setAif false).setGie false with ctx := .isr, ipc := .capture }

/-- Interrupt return (60_exceptions.md R351): the global enable is set again and the main context resumes at its `mpc`. -/
def State.returnFromInterrupt (s : State) : State := { s.setGie true with ctx := .main }

/-- `ResetState(v)`, the part common to every reset (70_reset_and_hazards.md R401, 10_state.md R66): all but `rcf`,
`wdt_en`, `wdt_to`, `swc` and the marks. What the spec leaves unread (`sw`, `t`, `PREV`) takes a free value (log entry 8). -/
def State.resetState (s : State) (v : Byte) : State :=
  { s with
    draws := s.draws + 1
    mpc := .suCli, ctx := .main, ipc := .capture, gie := false
    sw := Config.freeSw s.draws, t := Config.freeT s.draws
    clkdiv := s.cfg.clkDivReset
    tmode := 0, tcom := 0, tcs := 0, tie := 0, tcnt := 0, ttop := 0, tcmp := 0, tcmpa := 0, toc := false
    aref := 0, ach := 0, alar := false, aen := false, arun := false, aate := false, aif := false, aie := false
    aps := 0, aresh := 0, gdir := 0, gout := 0, gpue := 0, gpin := 0
    sample := v, prev := Config.freePrev s.draws }

/-- The watchdog's state, `wdt_en` and `wdt_to` (10_state.md R40). -/
def State.setWatchdog (s : State) (en : Bool) (timeout : BitVec 3) : State :=
  { s with wdtEn := en, wdtTo := timeout }

/-- The trace without its first word: that word has been taken. -/
def State.dropWord (s : State) : State := { s with trace := s.trace.tail }

/-- One free value has been drawn. -/
def State.countDraw (s : State) : State := { s with draws := s.draws + 1 }

/-- A word placed as the next one to be taken. -/
def State.placeWord (s : State) (w : Word) : State := { s with trace := w :: s.trace }

end Sys2Proof.Machine
end

