-- ==== Sys2Proof/Machine/Adc.lean ====
section
/-! DEFINITION. The converter's operation (spec/43_adc_sample_capture.md R230). -/

namespace Sys2Proof.Machine

/-- AD.DONE (43_adc_sample_capture.md R230): a conversion completes; with free-running triggering the next one starts. -/
def execAdDone (vv : Byte) (s : State) : Result :=
  guarded (.adDone vv) s { s.setAif true with aresh := vv, arun := s.aate }

end Sys2Proof.Machine
end

