-- ==== Sys2Proof/Machine/Gpio.lean ====
section
/-! DEFINITION. The input latch and the switch (spec/44_gpio_latch.md R272, R274). Both words are always enabled; an
argument outside the legal set sets the refusal mark, as it does at decode (30_encoding.md R117). -/

namespace Sys2Proof.Machine

/-- IO.LATCH (44_gpio_latch.md R272): sample every pad at once. -/
def execIoLatch (ff : Byte) (s : State) : Result :=
  guarded (.ioLatch ff) s
    (if (Instr.ioLatch ff).wf s.cfg.nPins then { s with gpin := latchValue ff s } else s.refuse .badArg)

/-- EV.SW (44_gpio_latch.md R274): the environment closes (0) or opens (1) the switch. -/
def execEvSw (b : Byte) (s : State) : Result :=
  guarded (.evSw b) s
    (if (Instr.evSw b).wf s.cfg.nPins then
       { s with swc := if b = 0 then .closedContact else .openContact }
     else s.refuse .badArg)

end Sys2Proof.Machine
end

