-- ==== Sys2Proof/Machine/Init.lean ====
section
/-! DEFINITION. The peripheral initialiser's operations (spec/41_peripheral_init.md R160-R169). -/

namespace Sys2Proof.Machine

/-- IN.CLK (41_peripheral_init.md R160): set the system clock scaler. -/
def execInClk (s : State) : Result := guarded .inClk s { s.goto .inTcnt0 with clkdiv := s.cfg.clkDivCfg }

/-- IN.TCNT0 (41_peripheral_init.md R161): zero the counter. -/
def execInTcnt0 (s : State) : Result := guarded .inTcnt0 s { s.goto .inTcmp with tcnt := 0 }

/-- IN.TCMP (41_peripheral_init.md R162): WriteCMP(PWM_CENTER). -/
def execInTcmp (s : State) : Result := guarded .inTcmp s ((s.writeCmp (centerByte s.cfg)).goto .inTtop)

/-- IN.TTOP (41_peripheral_init.md R163): set the top value. -/
def execInTtop (s : State) : Result := guarded .inTtop s { s.goto .inTmode with ttop := s.cfg.pwmTop }

/-- IN.TMODE (41_peripheral_init.md R164): select the PWM mode, start the timer, output high at BOTTOM. -/
def execInTmode (s : State) : Result :=
  guarded .inTmode s
    { s.goto .inTirq with tmode := tmodePwmTop, tcom := tcomNoninv, tcs := tcsRunning, toc := true }

/-- IN.TIRQ (41_peripheral_init.md R165): disable all timer interrupts. -/
def execInTirq (s : State) : Result := guarded .inTirq s { s.goto .inAmux with tie := 0 }

/-- IN.AMUX (41_peripheral_init.md R166): reference, channel and left alignment. -/
def execInAmux (s : State) : Result :=
  guarded .inAmux s { s.goto .inActl with aref := s.cfg.adcRef, ach := s.cfg.adcCh, alar := true }

/-- IN.ACTL (41_peripheral_init.md R167): enable the converter, free running and the interrupt, and start converting;
`aif` stays. -/
def execInActl (s : State) : Result :=
  guarded .inActl s
    { s.goto .inGdir with aen := true, aate := true, aie := true, aps := s.cfg.adcPs, arun := true }

/-- IN.GDIR (41_peripheral_init.md R168): the PWM pin an output, every other pin an input. -/
def execInGdir (s : State) : Result := guarded .inGdir s { s.goto .inGpue with gdir := bit s.cfg.pwmPin }

/-- IN.GPUE (41_peripheral_init.md R169): the switch pin's pull-up, and every output value 0. -/
def execInGpue (s : State) : Result := guarded .inGpue s { s.goto .sei with gpue := bit s.cfg.swPin, gout := 0 }

end Sys2Proof.Machine
end

