-- ==== Sys2Proof/Machine/Interrupt.lean ====
section
/-! DEFINITION. The interrupt context: entry and return (spec/60_exceptions.md R350, R351) and the handler's body
(43_adc_sample_capture.md R240). -/

namespace Sys2Proof.Machine

/-- IS.ENTER (60_exceptions.md R350). -/
def execIsEnter (s : State) : Result := guarded .isEnter s s.enterInterrupt

/-- IS.CAPTURE (43_adc_sample_capture.md R240): copy the result register into SAMPLE; a right-aligned result raises
the fault mark. -/
def execIsCapture (s : State) : Result :=
  guarded .isCapture s
    (if s.alar then { s.writeSample s.aresh with ipc := .ret } else s.raise .adcAlignmentUnmodelled)

/-- IS.RETURN (60_exceptions.md R351). -/
def execIsReturn (s : State) : Result := guarded .isReturn s s.returnFromInterrupt

end Sys2Proof.Machine
end

