-- ==== Sys2Proof/Machine/Loop.lean ====
section
/-! DEFINITION. The main line: ML.SEI (spec/41_peripheral_init.md R170) and the control loop (45_control_loop.md
R300-R307). -/

namespace Sys2Proof.Machine

/-- ML.SEI (41_peripheral_init.md R170): global interrupt enable. -/
def execMlSei (s : State) : Result := guarded .mlSei s ((s.setGie true).goto .settle)

/-- ML.SETTLE (45_control_loop.md R300): the settling delay ends; the whole delay is this one step. -/
def execMlSettle (s : State) : Result := guarded .mlSettle s (s.goto .seed)

/-- ML.SEED (45_control_loop.md R301): the previous state is seeded to MANUAL. -/
def execMlSeed (s : State) : Result := guarded .mlSeed s ((s.writePrev false).goto .read)

/-- ML.READ (45_control_loop.md R302): read the latch, not the pad, and keep the switch bit. -/
def execMlRead (s : State) : Result := guarded .mlRead s { s.goto .decide with sw := switchState s.cfg s.gpin }

/-- ML.CENTER (45_control_loop.md R303): on a transition into CENTER, WriteCMP(PWM_CENTER). -/
def execMlCenter (s : State) : Result := guarded .mlCenter s ((s.writeCmp (centerByte s.cfg)).goto .record)

/-- ML.MREAD (45_control_loop.md R304): read the sample cell. -/
def execMlMread (s : State) : Result := guarded .mlMread s { s.goto .mwrite with t := s.readSample }

/-- ML.SKIP (45_control_loop.md R305): CENTER held, nothing written. -/
def execMlSkip (s : State) : Result := guarded .mlSkip s (s.goto .record)

/-- ML.MWRITE (45_control_loop.md R306): WriteCMP of the scaled sample. -/
def execMlMwrite (s : State) : Result := guarded .mlMwrite s ((s.writeCmp (scale s.cfg s.t)).goto .record)

/-- ML.RECORD (45_control_loop.md R307): record the Switch State as previous. -/
def execMlRecord (s : State) : Result := guarded .mlRecord s ((s.writePrev s.sw).goto .read)

end Sys2Proof.Machine
end

