-- ==== Sys2Proof/Machine/ResetLogic.lean ====
section
/-! DEFINITION. The reset words (spec/70_reset_and_hazards.md R402, R404, R405). -/

namespace Sys2Proof.Machine

/-- RS.POR (70_reset_and_hazards.md R402): power-on; only its own cause remains. -/
def execRsPor (v : Byte) (s : State) : Result :=
  guarded (.rsPor v) s (((s.resetState v).setRcf rcfPor).setWatchdog s.cfg.wdtPorEn 0)

/-- RS.WDT (70_reset_and_hazards.md R404): the watchdog stays armed at its fastest timeout. -/
def execRsWdt (v : Byte) (s : State) : Result :=
  guarded (.rsWdt v) s (((s.resetState v).setRcf (s.rcf ||| rcfWdt)).setWatchdog true 0)

/-- RS.OTH (70_reset_and_hazards.md R405): the watchdog keeps its state. -/
def execRsOth (v : Byte) (s : State) : Result :=
  guarded (.rsOth v) s ((s.resetState v).setRcf (s.rcf ||| rcfOth))

end Sys2Proof.Machine
end

