-- ==== Sys2Proof/Machine/Startup.lean ====
section
/-! DEFINITION. The startup handler's operations (spec/40_startup.md R140-R142). -/

namespace Sys2Proof.Machine

/-- SU.CLI (40_startup.md R140): globally disable interrupts. -/
def execSuCli (s : State) : Result := guarded .suCli s ((s.setGie false).goto .suClrrc)

/-- SU.CLRRC (40_startup.md R141): clear every reset-cause flag. -/
def execSuClrrc (s : State) : Result := guarded .suClrrc s ((s.setRcf 0).goto .suWdoff)

/-- SU.WDOFF (40_startup.md R142): disable the watchdog, unless its reset-cause flag locks it; `wdt_to` stays. -/
def execSuWdoff (s : State) : Result :=
  guarded .suWdoff s ((s.setWatchdog (s.wdtEn && s.wdtLocked) s.wdtTo).goto .inClk)

end Sys2Proof.Machine
end

