-- ==== Sys2Proof/Machine/Timer.lean ====
section
/-! DEFINITION. The PWM timer's operation (spec/42_pwm_timer.md R191, R197). -/

namespace Sys2Proof.Machine

/-- TM.TICK (42_pwm_timer.md R191): one timer clock. -/
def execTmTick (s : State) : Result :=
  guarded .tmTick s
    (if reservedTimerField s then s.raise .timerFieldReserved
     else if s.tmode ≠ tmodePwmTop then s.raise .timerModeUnmodelled
     else s.tick)

end Sys2Proof.Machine
end

