-- ==== Sys2Proof/Machine/Dispatch.lean ====
section
/-! DEFINITION. The dispatch of every action word to its meaning. -/

namespace Sys2Proof.Machine

/-- The meaning of an instruction (spec/30_encoding.md R112, last column). -/
def exec (i : Instr) (s : State) : Host.Outcome State Fault Refusal :=
  match i with
  | .suCli => Sys2Proof.Machine.execSuCli s
  | .suClrrc => Sys2Proof.Machine.execSuClrrc s
  | .suWdoff => Sys2Proof.Machine.execSuWdoff s
  | .inClk => Sys2Proof.Machine.execInClk s
  | .inTcnt0 => Sys2Proof.Machine.execInTcnt0 s
  | .inTcmp => Sys2Proof.Machine.execInTcmp s
  | .inTtop => Sys2Proof.Machine.execInTtop s
  | .inTmode => Sys2Proof.Machine.execInTmode s
  | .inTirq => Sys2Proof.Machine.execInTirq s
  | .inAmux => Sys2Proof.Machine.execInAmux s
  | .inActl => Sys2Proof.Machine.execInActl s
  | .inGdir => Sys2Proof.Machine.execInGdir s
  | .inGpue => Sys2Proof.Machine.execInGpue s
  | .mlSei => Sys2Proof.Machine.execMlSei s
  | .mlSettle => Sys2Proof.Machine.execMlSettle s
  | .mlSeed => Sys2Proof.Machine.execMlSeed s
  | .mlRead => Sys2Proof.Machine.execMlRead s
  | .mlCenter => Sys2Proof.Machine.execMlCenter s
  | .mlMread => Sys2Proof.Machine.execMlMread s
  | .mlSkip => Sys2Proof.Machine.execMlSkip s
  | .mlMwrite => Sys2Proof.Machine.execMlMwrite s
  | .mlRecord => Sys2Proof.Machine.execMlRecord s
  | .isEnter => Sys2Proof.Machine.execIsEnter s
  | .isCapture => Sys2Proof.Machine.execIsCapture s
  | .isReturn => Sys2Proof.Machine.execIsReturn s
  | .tmTick => Sys2Proof.Machine.execTmTick s
  | .adDone vv => Sys2Proof.Machine.execAdDone vv s
  | .ioLatch ff => Sys2Proof.Machine.execIoLatch ff s
  | .evSw b => Sys2Proof.Machine.execEvSw b s
  | .rsPor v => Sys2Proof.Machine.execRsPor v s
  | .rsWdt v => Sys2Proof.Machine.execRsWdt v s
  | .rsOth v => Sys2Proof.Machine.execRsOth v s

end Sys2Proof.Machine
end

