-- ==== Sys2Proof/Machine/Schedule.lean ====
section
/-! DEFINITION. Which word comes next. The agents' steps interleave in any order (spec/10_state.md R31): the next word
is the first of the trace, and where the trace is empty one of the enabled words, chosen by a free value (log entry 5). -/

namespace Sys2Proof.Machine

/-- One word of every operation, each that takes an argument with `a`, cut to the operation's legal set on a port of
`n` pins (30_encoding.md R112, R114, R117). -/
def menu (a : Byte) (n : Nat) : List Instr :=
  [.suCli, .suClrrc, .suWdoff, .inClk, .inTcnt0, .inTcmp, .inTtop, .inTmode, .inTirq, .inAmux, .inActl, .inGdir,
   .inGpue, .mlSei, .mlSettle, .mlSeed, .mlRead, .mlCenter, .mlMread, .mlSkip, .mlMwrite, .mlRecord,
   .isEnter, .isCapture, .isReturn, .tmTick] ++
  [.adDone a, .ioLatch (a &&& pinMask n), .evSw (a &&& 1), .rsPor a, .rsWdt a, .rsOth a]

/-- The enabled words of a state, with the argument drawn (10_state.md R31). -/
def enabledWords (a : Byte) (s : State) : List Instr := (menu a s.cfg.nPins).filter (fun i => enabled i s)

/-- The enabled word that the choice `k` and the drawn argument `a` name. The list always holds RS.POR, so the choice
always names one of it. -/
def chooseWord (k : Nat) (a : Byte) (s : State) : Instr :=
  (enabledWords a s).getD (k % (enabledWords a s).length) (.rsPor a)

/-- The next word and the state after it has been taken: the trace's first word, or a free choice. -/
def nextWord (s : State) : Word × State :=
  match s.trace with
  | w :: _ => (w, s.dropWord)
  | [] => (encode (chooseWord (Config.scheduleKind s.draws) (Config.scheduleArg s.draws) s), s.countDraw)

/-- A word placed so that the very next step takes it and runs its operation: it stands first in the trace, and the
fields its guard names are as the guard asks (log entry 4). A reserved word is placed and nothing else changes. -/
def placeToRun (s : State) (w : Word) : State :=
  match decode s.cfg.nPins w with
  | .ok i => (enableFor i s).placeWord w
  | .refuse _ => s.placeWord w

end Sys2Proof.Machine
end

