-- ==== Sys2Proof/Machine/Step.lean ====
section
/-! DEFINITION. One step of the block (spec/10_state.md R31): take the next word, decode it, run its operation. -/

namespace Sys2Proof.Machine

/-- What a word does in a state: a word without a meaning sets the refusal mark (30_encoding.md R116-R118). -/
def runWord (w : Word) (s : State) : Result :=
  match decode s.cfg.nPins w with
  | .ok i => exec i s
  | .refuse r => .next (s.refuse r)

/-- One step (10_state.md R31): none where a mark is set; a configuration that is not well-formed is refused
(00_scope.md R8); else the next word is taken and run. -/
def step (s : State) : Host.Outcome State Fault Refusal :=
  whenUnmarked s
    (if s.cfg.wf then runWord (nextWord s).1 (nextWord s).2 else .next (s.refuse .illFormedConfig))

/-- `s` with one action word, given as spec/opcode_table.json numbers its bits, placed so that the next step takes and
runs it (log entry 4). -/
def State.withFetchWord (s : State) (nbits w : Nat) : State := placeToRun s (BitVec.ofNat 16 (w % 2 ^ nbits))

end Sys2Proof.Machine
end

