-- ==== Sys2Proof/Machine/Registers.lean ====
section
/-! DEFINITION. The register map of spec/10_state.md R62: each register's width and its value as a packing of the
state's fields, reserved bits 0. A view only: the fields are the state, and no operation goes through it (R62 allows
the record form; log entry 14). -/

namespace Sys2Proof.Machine

/-- The width of a register or cell (10_state.md R62, 20_memory.md R80). -/
def regWidth : RegName → Cfg → Nat
  | .cpusr, _ | .rstcause, _ | .wdtctl, _ | .clkctl, _ | .tctl, _ | .tie, _ => 8
  | .tcnt, c | .ttop, c => c.wT
  | .tcmp, c => c.cmpBits
  | .amux, _ | .actl, _ | .aresh, _ => 8
  | .gdir, c | .gout, c | .gpue, c | .gpin, c => c.nPins
  | .sampleCell, c => c.sampleBits
  | .prevCell, _ => 1

/-- CPUSR: [7] `gie`. -/
def State.cpusr (s : State) : Byte := BitVec.ofBool s.gie ++ (0 : BitVec 7)

/-- RSTCAUSE: [0] por, [1] oth, [2] wdt. -/
def State.rstcause (s : State) : Byte := (0 : BitVec 5) ++ s.rcf

/-- WDTCTL: [2:0] `wdt_to`, [3] `wdt_en`. -/
def State.wdtctl (s : State) : Byte := (0 : BitVec 4) ++ BitVec.ofBool s.wdtEn ++ s.wdtTo

/-- CLKCTL: [3:0] `clkdiv`. -/
def State.clkctl (s : State) : Byte := (0 : BitVec 4) ++ s.clkdiv

/-- TCTL: [1:0] `tmode`, [3:2] `tcom`, [6:4] `tcs`. -/
def State.tctl (s : State) : Byte := (0 : BitVec 1) ++ s.tcs ++ s.tcom ++ s.tmode

/-- TIE: [0] compare match, [1] overflow. -/
def State.tieReg (s : State) : Byte := (0 : BitVec 6) ++ s.tie

/-- AMUX: [3:0] `ach`, [5] `alar`, [7:6] `aref`. -/
def State.amux (s : State) : Byte := s.aref ++ BitVec.ofBool s.alar ++ (0 : BitVec 1) ++ s.ach

/-- ACTL: [2:0] `aps`, [3] `aie`, [4] `aif`, [5] `aate`, [6] `arun`, [7] `aen`. -/
def State.actl (s : State) : Byte :=
  BitVec.ofBool s.aen ++ BitVec.ofBool s.arun ++ BitVec.ofBool s.aate ++ BitVec.ofBool s.aif
    ++ BitVec.ofBool s.aie ++ s.aps

/-- The value of a register or cell, read whole as an unsigned number (00_scope.md R9, 20_memory.md R84). -/
def regValue : RegName → State → Nat
  | .cpusr, s => s.cpusr.toNat
  | .rstcause, s => s.rstcause.toNat
  | .wdtctl, s => s.wdtctl.toNat
  | .clkctl, s => s.clkctl.toNat
  | .tctl, s => s.tctl.toNat
  | .tie, s => s.tieReg.toNat
  | .tcnt, s => s.tcnt
  | .ttop, s => s.ttop
  | .tcmp, s => s.tcmp.toNat
  | .amux, s => s.amux.toNat
  | .actl, s => s.actl.toNat
  | .aresh, s => s.aresh.toNat
  | .gdir, s => s.gdir.toNat
  | .gout, s => s.gout.toNat
  | .gpue, s => s.gpue.toNat
  | .gpin, s => s.gpin.toNat
  | .sampleCell, s => s.readSample.toNat
  | .prevCell, s => s.readPrev.toNat

end Sys2Proof.Machine
end

