-- ==== Sys2Proof/Machine/Trace.lean ====
section
/-! DEFINITION. Traces of action words (spec/70_reset_and_hazards.md R451) and the pseudo-operations of
30_encoding.md R120. -/

namespace Sys2Proof.Machine

/-- The step of one decoded word (10_state.md R31): none where a mark is set. -/
def takeWord (i : Instr) (s : State) : Result := whenUnmarked s (exec i s)

/-- Decoded words taken in turn (10_state.md R31): the state after the last, or the first reason that a word has no step.
A last word may have set a mark there; whether the words have an end state is `runTrace`'s to say. -/
def takeWords : List Instr → State → Result
  | [], s => .next s
  | i :: is, s =>
    match takeWord i s with
    | .next s' => takeWords is s'
    | .fault r => .fault r
    | .refused r => .refused r

/-- `k` steps of the machine, the beginning of a run (10_state.md R32), up to the first that has no next state. -/
def runSteps : Nat → State → Result
  | 0, s => .next s
  | k + 1, s =>
    match step s with
    | .next s' => runSteps k s'
    | .fault r => .fault r
    | .refused r => .refused r

/-- The end state of a finite trace (70_reset_and_hazards.md R451): the state after its last word where no mark is set;
a marked state is none, and the mark is the reason. -/
def endState : Result → Result
  | .next e => whenUnmarked e (.next e)
  | .fault r => .fault r
  | .refused r => .refused r

/-- A finite trace of decoded words (70_reset_and_hazards.md R451): its end state, or the reason that it has none. -/
def runTrace (is : List Instr) (s : State) : Result := endState (takeWords is s)

/-- A finite trace of action words (70_reset_and_hazards.md R451), placed in the state and stepped through: its end
state, or the reason that it has none. -/
def runWords (ws : List Word) (s : State) : Result := endState (runSteps ws.length { s with trace := ws })

/-- `boot` (30_encoding.md R120 (a), 70_reset_and_hazards.md R407). -/
def boot : List Instr :=
  [.suCli, .suClrrc, .suWdoff, .inClk, .inTcnt0, .inTcmp, .inTtop, .inTmode, .inTirq, .inAmux, .inActl, .inGdir,
   .inGpue, .mlSei, .mlSettle, .mlSeed]

/-- `ad.sample vv` (30_encoding.md R120 (b)). -/
def adSample (vv : Byte) : List Instr := [.adDone vv, .isEnter, .isCapture, .isReturn]

/-- `tm.period` (30_encoding.md R120 (c)): `ttop + 1` ticks. -/
def tmPeriod (s : State) : List Instr := List.replicate (s.ttop + 1) .tmTick

/-- An iteration that enters CENTER (30_encoding.md R120 (d)). -/
def iterCenter : List Instr := [.mlRead, .mlCenter, .mlRecord]

/-- An iteration that holds CENTER (30_encoding.md R120 (d)). -/
def iterSkip : List Instr := [.mlRead, .mlSkip, .mlRecord]

/-- An iteration that reads MANUAL (30_encoding.md R120 (d)). -/
def iterManual : List Instr := [.mlRead, .mlMread, .mlMwrite, .mlRecord]

/-- `ml.iter` (30_encoding.md R120 (d)): one iteration of the loop as the state at its start selects it. -/
def mlIter (s : State) : List Instr :=
  if switchState s.cfg s.gpin = true then (if s.readPrev then iterSkip else iterCenter) else iterManual

/-- The pseudo-operations (30_encoding.md R120). -/
inductive Pseudo where
  | boot
  | adSample (vv : Byte)
  | tmPeriod
  | mlIter
  deriving DecidableEq, Repr

/-- The words a pseudo-operation stands for in a state (30_encoding.md R120). -/
def expand : Pseudo → State → List Instr
  | .boot, _ => boot
  | .adSample vv, _ => adSample vv
  | .tmPeriod, s => tmPeriod s
  | .mlIter, s => mlIter s

end Sys2Proof.Machine
end

