-- ==== Sys2Proof/Safety.lean ====
section
/-! DEFINITION. The terms claims about the block are stated in: the spec's step relation (spec/10_state.md R31), the
reachable states (R67, 70_reset_and_hazards.md R452), infinite runs and their fairness (R32, R33), and the invariant of
the reachable states. -/

namespace Sys2Proof

/-- The reset words. -/
def Instr.isReset : Instr → Bool
  | .rsPor _ | .rsWdt _ | .rsOth _ => true
  | .suCli | .suClrrc | .suWdoff | .inClk | .inTcnt0 | .inTcmp | .inTtop | .inTmode | .inTirq | .inAmux | .inActl
  | .inGdir | .inGpue | .mlSei | .mlSettle | .mlSeed | .mlRead | .mlCenter | .mlMread | .mlSkip | .mlMwrite
  | .mlRecord | .isEnter | .isCapture | .isReturn | .tmTick => false
  | .adDone _ | .ioLatch _ | .evSw _ => false

/-- The words of the main context: units SU, IN and ML (30_encoding.md R111). -/
def Instr.isMain : Instr → Bool
  | .suCli | .suClrrc | .suWdoff | .inClk | .inTcnt0 | .inTcmp | .inTtop | .inTmode | .inTirq | .inAmux | .inActl
  | .inGdir | .inGpue | .mlSei | .mlSettle | .mlSeed | .mlRead | .mlCenter | .mlMread | .mlSkip | .mlMwrite
  | .mlRecord => true
  | .isEnter | .isCapture | .isReturn | .tmTick => false
  | .adDone _ | .ioLatch _ | .evSw _ | .rsPor _ | .rsWdt _ | .rsOth _ => false

/-- The kinds of step that have fairness (10_state.md R33). -/
inductive StepKind where
  | mainStep | interruptEntry | interruptStep | timerTick | conversion | latch
  deriving DecidableEq, Repr

/-- The kind of a word; the environment's and the reset words have none (10_state.md R33). -/
def Instr.kind : Instr → Option StepKind
  | .suCli | .suClrrc | .suWdoff | .inClk | .inTcnt0 | .inTcmp | .inTtop | .inTmode | .inTirq | .inAmux | .inActl
  | .inGdir | .inGpue | .mlSei | .mlSettle | .mlSeed | .mlRead | .mlCenter | .mlMread | .mlSkip | .mlMwrite
  | .mlRecord => some .mainStep
  | .isEnter => some .interruptEntry
  | .isCapture | .isReturn => some .interruptStep
  | .tmTick => some .timerTick
  | .adDone _ => some .conversion
  | .ioLatch _ => some .latch
  | .evSw _ | .rsPor _ | .rsWdt _ | .rsOth _ => none

end Sys2Proof

namespace Sys2Proof.Machine

/-- `S --w--> S'` (10_state.md R31): the word decodes (its argument is legal), its guard holds and no mark is set. -/
def Steps (s : State) (i : Instr) (s' : State) : Prop :=
  s.fault = none ∧ s.refused = none ∧ i.wf s.cfg.nPins = true ∧ exec i s = .next s'

/-- The launch states of every well-formed configuration (10_state.md R67): any sample draw, either contact, and any
value in what the spec leaves unread (`sw`, `t`, `PREV`) and in the model's own fields. -/
def IsLaunch (s : State) : Prop :=
  s.cfg.wf = true ∧
    s = { State.launch s.cfg s.sample s.swc with trace := s.trace, draws := s.draws, sw := s.sw, t := s.t, prev := s.prev }

/-- The reachable states (70_reset_and_hazards.md R452): from a launch state by steps of any words, the reset words and
the environment's among them, in any order. -/
inductive Reachable : State → Prop where
  | launch {s : State} (h : IsLaunch s) : Reachable s
  | step {s s' : State} (i : Instr) (hs : Reachable s) (h : Steps s i s') : Reachable s'

/-- Every ML.READ of a trace from `s` finds the latch showing `b`, 1 for CENTER (45_control_loop.md R302, R314). -/
def ReadsOnly (b : Bool) (is : List Instr) (s : State) : Prop :=
  ∀ (a c : List Instr) (x : State), is = a ++ Instr.mlRead :: c → takeWords a s = .next x →
    switchState x.cfg x.gpin = b

/-- A run (10_state.md R32): an infinite sequence of steps, from any state. -/
structure IsRun (st : Nat → State) (w : Nat → Instr) : Prop where
  steps : ∀ n, Steps (st n) (w n) (st (n + 1))

/-- A step of the kind exists in the state. -/
def KindEnabled (k : StepKind) (s : State) : Prop :=
  ∃ i s', Instr.kind i = some k ∧ Steps s i s'

/-- Weak fairness of a kind: if it stays enabled from some state on, it is eventually taken (10_state.md R33). -/
def WeaklyFair (k : StepKind) (st : Nat → State) (w : Nat → Instr) : Prop :=
  ∀ n, (∀ m, n ≤ m → KindEnabled k (st m)) → ∃ m, n ≤ m ∧ Instr.kind (w m) = some k

/-- Strong fairness of a kind: if it is enabled infinitely often, it is taken infinitely often (10_state.md R33). -/
def StronglyFair (k : StepKind) (st : Nat → State) (w : Nat → Instr) : Prop :=
  (∀ n, ∃ m, n ≤ m ∧ KindEnabled k (st m)) → ∀ n, ∃ m, n ≤ m ∧ Instr.kind (w m) = some k

/-- The fairness of 10_state.md R33: weak for every kind, and strong for the main context's. -/
def FairRun (st : Nat → State) (w : Nat → Instr) : Prop :=
  IsRun st w ∧ (∀ k, WeaklyFair k st w) ∧ StronglyFair .mainStep st w

/-- The invariant of the block: what each phase of the boot sequence and the loop guarantees of every field
(10_state.md R34 and the rules named at each clause). Every step keeps it, whatever the trace holds. -/
structure BlockInv (s : State) : Prop where
  /-- the configuration is well-formed (00_scope.md R8) -/
  cfgWf : s.cfg.wf = true
  /-- no fault mark (10_state.md R60) -/
  noFault : s.fault = none
  /-- `mpc` is one of the twenty phases (10_state.md R34) -/
  phase : s.mpc.code < 20
  /-- no interrupt before ML.SEI (41_peripheral_init.md R172) -/
  beforeSei : s.mpc.code ≤ 13 → s.ctx = .main ∧ s.gie = false
  /-- after it `gie` is 1 in the main context and 0 in the handler (60_exceptions.md R350, R351, R354) -/
  afterSei : 14 ≤ s.mpc.code → s.gie = decide (s.ctx = .main)
  /-- the reset cause is cleared by SU.CLRRC (40_startup.md R141) -/
  causeClear : 2 ≤ s.mpc.code → s.rcf = 0
  /-- the watchdog is off after SU.WDOFF (40_startup.md R143) -/
  watchdogOff : 3 ≤ s.mpc.code → s.wdtEn = false
  /-- the timeout is never anything but the fastest (10_state.md R40) -/
  fastestTimeout : s.wdtTo = 0
  /-- the divider before and after IN.CLK (41_peripheral_init.md R160) -/
  divider : s.clkdiv = if s.mpc.code ≤ 3 then s.cfg.clkDivReset else s.cfg.clkDivCfg
  /-- the timer is stopped at 0 until IN.TMODE (42_pwm_timer.md R198) -/
  timerStopped : s.mpc.code ≤ 7 → s.tmode = 0 ∧ s.tcom = 0 ∧ s.tcs = 0 ∧ s.tcnt = 0 ∧ s.toc = false
  /-- and runs in PWM mode after it -/
  timerRuns : 8 ≤ s.mpc.code → s.tmode = tmodePwmTop ∧ s.tcom = tcomNoninv ∧ s.tcs = tcsRunning
  /-- no timer interrupt is ever enabled (10_state.md R43) -/
  noTimerInterrupt : s.tie = 0
  /-- the top value before and after IN.TTOP (41_peripheral_init.md R163) -/
  top : s.ttop = if s.mpc.code ≤ 6 then 0 else s.cfg.pwmTop
  /-- the counter never passes the top (42_pwm_timer.md R191 (e)) -/
  countBelowTop : s.tcnt ≤ s.ttop
  /-- the compare register before IN.TCMP (10_state.md R66) -/
  compareReset : s.mpc.code ≤ 5 → s.tcmp = 0 ∧ s.tcmpa = 0
  /-- and between IN.TCMP and the loop (45_control_loop.md R316) -/
  compareCenter : 6 ≤ s.mpc.code → s.mpc.code ≤ 15 → s.tcmp = centerByte s.cfg ∧ s.tcmpa = centerByte s.cfg
  /-- the range of the compare register after IN.TCMP (45_control_loop.md R311) -/
  compareRange : 6 ≤ s.mpc.code →
    s.cfg.pwmLow ≤ s.tcmp.toNat ∧ s.tcmp.toNat ≤ s.cfg.pwmHigh ∧
      s.cfg.pwmLow ≤ s.tcmpa.toNat ∧ s.tcmpa.toNat ≤ s.cfg.pwmHigh
  /-- without buffering the value in effect is the register's (42_pwm_timer.md R192) -/
  compareSame : s.cfg.cmpBuffered = false → s.tcmpa = s.tcmp
  /-- with buffering the output is high exactly up to the compare value (42_pwm_timer.md R193) -/
  pulse : s.cfg.cmpBuffered = true → 8 ≤ s.mpc.code → s.toc = decide (s.tcnt ≤ s.tcmpa.toNat)
  /-- the ADC's multiplexer before and after IN.AMUX (41_peripheral_init.md R166) -/
  muxReset : s.mpc.code ≤ 9 → s.aref = 0 ∧ s.ach = 0 ∧ s.alar = false
  muxSet : 10 ≤ s.mpc.code → s.aref = s.cfg.adcRef ∧ s.ach = s.cfg.adcCh ∧ s.alar = true
  /-- the converter before and after IN.ACTL (41_peripheral_init.md R167) -/
  adcOff : s.mpc.code ≤ 10 →
    s.aen = false ∧ s.arun = false ∧ s.aate = false ∧ s.aie = false ∧ s.aif = false ∧ s.aps = 0
  adcOn : 11 ≤ s.mpc.code → s.aen = true ∧ s.arun = true ∧ s.aate = true ∧ s.aie = true ∧ s.aps = s.cfg.adcPs
  /-- the directions before and after IN.GDIR (41_peripheral_init.md R168) -/
  directions : s.gdir = if s.mpc.code ≤ 11 then 0 else bit s.cfg.pwmPin
  /-- the pull-ups before and after IN.GPUE (41_peripheral_init.md R169) -/
  pullUps : s.gpue = if s.mpc.code ≤ 12 then 0 else bit s.cfg.swPin
  /-- no output value is ever 1 (41_peripheral_init.md R169) -/
  outputsZero : s.gout = 0
  /-- the latch has no bit at or above `N_PINS` (10_state.md R55) -/
  latchPins : s.gpin.toNat < 2 ^ s.cfg.nPins
  /-- the compare write of the loop follows a MANUAL read (45_control_loop.md R304, R306) -/
  manualWrite : s.mpc = .mwrite → s.sw = false

/-- Every agent's safe run in one term: a reachable state in which neither mark is set (70_reset_and_hazards.md R452). -/
def Safe (s : State) : Prop := Reachable s ∧ s.fault = none ∧ s.refused = none

end Sys2Proof.Machine
end

