-- ==== Sys2Proof/Certificates/Slice0/Obligations.lean ====
section
/-! DEFINITION. The statements for the provers. Each docstring names the rules of spec/ it formalises or rests on. -/

open Sys2Proof Sys2Proof.Machine

/-! ### Encoding and decoding -/

/-- 30_encoding.md R112, R118: decoding an encoded instruction gives it back, with every argument its word admits, on
a port of any number of pins. -/
def Obligations.DecodeOfEncodeIsTheInstruction : Prop :=
  ∀ (n : Nat) (i : Instr), i.wf n = true → decode n (encode i) = .ok i

/-- 30_encoding.md R110, R112, R118: a word that decodes is the word of the instruction it decodes to, and its argument
is legal; so no two words have one meaning. -/
def Obligations.DecodedWordIsTheInstructionsWord : Prop :=
  ∀ (n : Nat) (w : Word) (i : Instr), decode n w = .ok i → encode i = w ∧ i.wf n = true

/-- 30_encoding.md R113, R116: exactly the words whose UNIT is reserved, or whose OP is reserved within its unit, refuse
as reserved words, and stepping on one sets the refusal mark. That the step also takes the word from the trace is the
model's choice (log entry 10). -/
def Obligations.ReservedWordsRefuse : Prop :=
  ∀ (n : Nat) (w : Word) (u o : Nat), u = (unitOf w).toNat → o = (opOf w).toNat →
    (decode n w = .refuse .reservedWord ↔
      (u = 0 ∨ 10 ≤ u ∨ (u = 1 ∧ 3 ≤ o) ∨ (u = 2 ∧ 10 ≤ o) ∨ (u = 3 ∧ 9 ≤ o) ∨ (u = 4 ∧ 3 ≤ o)
        ∨ (5 ≤ u ∧ u ≤ 8 ∧ 1 ≤ o) ∨ (u = 9 ∧ 3 ≤ o))) ∧
    (∀ (s : State) (ws : List Word), s.fault = none → s.refused = none → s.cfg.wf = true → s.trace = w :: ws →
      decode s.cfg.nPins w = .refuse .reservedWord →
      step s = .next { s with trace := ws, refused := some .reservedWord })

/-- 30_encoding.md R117: a word without an argument refuses with NonzeroArg exactly when its ARG is not 0; EV.SW with
ARG > 1 and IO.LATCH with a bit `N_PINS..7` set, and no other word, refuse with BadArg; stepping on one sets the mark.
That the step also takes the word from the trace is the model's choice (log entry 10). -/
def Obligations.IllegalArgumentsRefuse : Prop :=
  ∀ (n : Nat) (w : Word) (u o : Nat), u = (unitOf w).toNat → o = (opOf w).toNat →
    (decode n w = .refuse .nonzeroArg ↔
      (argOf w ≠ 0 ∧ ((u = 1 ∧ o ≤ 2) ∨ (u = 2 ∧ o ≤ 9) ∨ (u = 3 ∧ o ≤ 8) ∨ (u = 4 ∧ o ≤ 2) ∨ (u = 5 ∧ o = 0)))) ∧
    (decode n w = .refuse .badArg ↔
      ((u = 8 ∧ o = 0 ∧ 1 < (argOf w).toNat) ∨
       (u = 7 ∧ o = 0 ∧ ∃ j, n ≤ j ∧ j < 8 ∧ (argOf w).getLsbD j = true))) ∧
    (∀ (s : State) (ws : List Word) (r : RefusalReason), s.fault = none → s.refused = none → s.cfg.wf = true →
      s.trace = w :: ws → decode s.cfg.nPins w = .refuse r →
      step s = .next { s with trace := ws, refused := some r })

/-- 30_encoding.md R112, written out bit by bit (hex digit UNIT, hex digit OP, byte ARG), and every refused word of the
decode vectors of 95_test_vectors.md L2.1 (D2 to D7, D10, D11, D13, D15, D16). -/
def Obligations.TabulatedWordsDecode : Prop :=
  (decode 8 0x1000#16 = .ok .suCli ∧ decode 8 0x1100#16 = .ok .suClrrc ∧ decode 8 0x1200#16 = .ok .suWdoff) ∧
  (decode 8 0x2000#16 = .ok .inClk ∧ decode 8 0x2400#16 = .ok .inTmode ∧ decode 8 0x2900#16 = .ok .inGpue) ∧
  (decode 8 0x3000#16 = .ok .mlSei ∧ decode 8 0x3400#16 = .ok .mlCenter ∧ decode 8 0x3800#16 = .ok .mlRecord) ∧
  (decode 8 0x4000#16 = .ok .isEnter ∧ decode 8 0x4100#16 = .ok .isCapture ∧ decode 8 0x4200#16 = .ok .isReturn) ∧
  (decode 8 0x5000#16 = .ok .tmTick ∧ decode 8 0x60FF#16 = .ok (.adDone 0xFF) ∧
    decode 8 0x7080#16 = .ok (.ioLatch 0x80) ∧ decode 8 0x8001#16 = .ok (.evSw 1)) ∧
  (decode 8 0x9042#16 = .ok (.rsPor 0x42) ∧ decode 8 0x9155#16 = .ok (.rsWdt 0x55) ∧
    decode 8 0x9210#16 = .ok (.rsOth 0x10)) ∧
  (decode 8 0x1001#16 = .refuse .nonzeroArg ∧ decode 8 0x1300#16 = .refuse .reservedWord ∧
    decode 8 0x0000#16 = .refuse .reservedWord ∧ decode 8 0xA000#16 = .refuse .reservedWord ∧
    decode 8 0x2A00#16 = .refuse .reservedWord ∧ decode 8 0x3900#16 = .refuse .reservedWord ∧
    decode 8 0x9300#16 = .refuse .reservedWord ∧ decode 8 0x5100#16 = .refuse .reservedWord ∧
    decode 8 0x4300#16 = .refuse .reservedWord ∧
    decode 7 0x7080#16 = .refuse .badArg ∧ decode 8 0x8002#16 = .refuse .badArg)

/-! ### The step -/

/-- 10_state.md R31, 30_encoding.md R118: where no mark is set and the configuration is well-formed, a step whose next
word is an instruction's is that instruction's meaning, the word taken. Nothing is added around it: the program counters
are moved by the meanings. -/
def Obligations.StepRunsTheDecodedInstruction : Prop :=
  ∀ (s : State) (i : Instr) (ws : List Word), s.fault = none → s.refused = none → s.cfg.wf = true →
    i.wf s.cfg.nPins = true → s.trace = encode i :: ws → step s = exec i { s with trace := ws }

/-- The model's own placing of a word (log entry 4): the next step runs exactly that instruction in a state in which its
guard holds, and where the guard holds already nothing but the trace has changed. -/
def Obligations.PlacedWordRuns : Prop :=
  ∀ (s : State) (i : Instr), s.fault = none → s.refused = none → s.cfg.wf = true → i.wf s.cfg.nPins = true →
    step (s.withFetchWord 16 (encode i).toNat) = exec i (enableFor i s) ∧ enabled i (enableFor i s) = true ∧
      (enabled i s = true → enableFor i s = s)

/-- 70_reset_and_hazards.md R451: a trace ends in the state after its last word, provided every word was enabled in turn
and no mark was set, by the last word neither. Stepping through the words of a trace is taking its operations in turn,
with the words after it left standing or with none; an end state has no mark; a trace with a word that refuses has none,
and one with a word that is not enabled in the state it meets has none either, which is no refusal. That the words of a
trace stand in the state is the model's choice (log entry 4). -/
def Obligations.RunOfATraceTakesItsOperationsInTurn : Prop :=
  (∀ (is : List Instr) (s : State) (rest : List Word), s.cfg.wf = true → (∀ i ∈ is, i.wf s.cfg.nPins = true) →
    s.trace = is.map encode ++ rest →
    runSteps is.length s = takeWords is { s with trace := rest } ∧
    ∀ e : State, runSteps is.length s = .next e ∧ e.fault = none ∧ e.refused = none ↔
      runTrace is { s with trace := rest } = .next e) ∧
  (∀ (is : List Instr) (s : State), s.cfg.wf = true → (∀ i ∈ is, i.wf s.cfg.nPins = true) →
    runWords (is.map encode) s = runTrace is { s with trace := [] }) ∧
  (∀ (ws : List Word) (s e : State), runWords ws s = .next e →
    e.fault = none ∧ e.refused = none ∧ ∀ w ∈ ws, ∃ i, decode s.cfg.nPins w = .ok i) ∧
  (∀ (is js : List Instr) (i : Instr) (s m : State), runTrace is s = .next m → enabled i m = false →
    runTrace (is ++ i :: js) s = .fault .noStep)

/-- 10_state.md R31, R32 (the choice is the model's, log entry 5): where the trace is empty, a step takes one of the
enabled words and has a next state, so only a mark ends a run. -/
def Obligations.EmptyTraceTakesAnEnabledWord : Prop :=
  ∀ (s : State), s.fault = none → s.refused = none → s.cfg.wf = true → s.trace = [] →
    ∃ (i : Instr) (s' : State), i.wf s.cfg.nPins = true ∧ enabled i s = true ∧
      step s = exec i { s with draws := s.draws + 1 } ∧ step s = .next s'

/-- 10_state.md R31, "any enabled word of any agent may be the next step" (the choice is the model's, log entry 5): some
choice and some draw name it. -/
def Obligations.EveryEnabledWordMayBeNext : Prop :=
  ∀ (s : State) (i : Instr), s.cfg.wf = true → i.wf s.cfg.nPins = true → enabled i s = true →
    ∃ (k : Nat) (a : Byte), chooseWord k a s = i

/-- 10_state.md R31, R60, R61: a mark, once set, ends the run: the step answers the mark, and no word has a step. -/
def Obligations.MarkedStatesHaveNoStep : Prop :=
  ∀ (s : State),
    (∀ r, s.fault = some r → step s = .fault (.faultMarked r)) ∧
    (∀ r, s.fault = none → s.refused = some r → step s = .refused (.refusalMarked r)) ∧
    (∀ i s', takeWord i s = .next s' → s.fault = none ∧ s.refused = none)

/-- 00_scope.md R8: the well-formed configurations, and a configuration that is not has no launch state. That
`State.launch` gives such a configuration a record with the mark IllFormedConfig, and that its step answers the mark, is
the model's choice (log entry 11). -/
def Obligations.IllFormedConfigurationsAreRefused : Prop :=
  ∀ (c : Cfg),
    (c.wf = true ↔
      (0 ≤ c.pwmLow ∧ c.pwmLow ≤ c.pwmCenter ∧ c.pwmCenter ≤ c.pwmHigh ∧ c.pwmHigh ≤ 255) ∧
      (c.pwmHigh < c.pwmTop ∧ c.pwmTop ≤ 2 ^ c.wT - 1) ∧ 1 ≤ c.pwmPrescale ∧ 8 ≤ c.adcBits ∧
      (1 ≤ c.nPins ∧ c.nPins ≤ 8) ∧ (c.pwmPin ≠ c.swPin ∧ c.pwmPin ≠ c.ainPin ∧ c.swPin ≠ c.ainPin) ∧
      (c.pwmPin < c.nPins ∧ c.swPin < c.nPins ∧ c.ainPin < c.nPins)) ∧
    (c.wf = false → ∀ (v : Byte) (k : Contact),
      (State.launch c v k).refused = some .illFormedConfig ∧
      step (State.launch c v k) = .refused (.refusalMarked .illFormedConfig)) ∧
    (∀ s : State, s.cfg = c → IsLaunch s → c.wf = true)

/-- 00_scope.md R11, 30_encoding.md R112: each word has a next state exactly where its guard holds; elsewhere it has no
step, and that is no refusal. -/
def Obligations.WordsStepExactlyWhereEnabled : Prop :=
  ∀ (i : Instr) (s : State),
    let guard : Prop :=
      match i with
      | .suCli => s.ctx = .main ∧ s.mpc = .suCli
      | .suClrrc => s.ctx = .main ∧ s.mpc = .suClrrc
      | .suWdoff => s.ctx = .main ∧ s.mpc = .suWdoff
      | .inClk => s.ctx = .main ∧ s.mpc = .inClk
      | .inTcnt0 => s.ctx = .main ∧ s.mpc = .inTcnt0
      | .inTcmp => s.ctx = .main ∧ s.mpc = .inTcmp
      | .inTtop => s.ctx = .main ∧ s.mpc = .inTtop
      | .inTmode => s.ctx = .main ∧ s.mpc = .inTmode
      | .inTirq => s.ctx = .main ∧ s.mpc = .inTirq
      | .inAmux => s.ctx = .main ∧ s.mpc = .inAmux
      | .inActl => s.ctx = .main ∧ s.mpc = .inActl
      | .inGdir => s.ctx = .main ∧ s.mpc = .inGdir
      | .inGpue => s.ctx = .main ∧ s.mpc = .inGpue
      | .mlSei => s.ctx = .main ∧ s.mpc = .sei
      | .mlSettle => s.ctx = .main ∧ s.mpc = .settle
      | .mlSeed => s.ctx = .main ∧ s.mpc = .seed
      | .mlRead => s.ctx = .main ∧ s.mpc = .read
      | .mlCenter => s.ctx = .main ∧ s.mpc = .decide ∧ s.sw = true ∧ s.prev = false
      | .mlMread => s.ctx = .main ∧ s.mpc = .decide ∧ s.sw = false
      | .mlSkip => s.ctx = .main ∧ s.mpc = .decide ∧ s.sw = true ∧ s.prev = true
      | .mlMwrite => s.ctx = .main ∧ s.mpc = .mwrite
      | .mlRecord => s.ctx = .main ∧ s.mpc = .record
      | .isEnter => s.ctx = .main ∧ s.gie = true ∧ s.aie = true ∧ s.aif = true
      | .isCapture => s.ctx = .isr ∧ s.ipc = .capture
      | .isReturn => s.ctx = .isr ∧ s.ipc = .ret
      | .tmTick => s.tcs ≠ 0
      | .adDone _ => s.aen = true ∧ s.arun = true
      | .rsWdt _ => s.wdtEn = true
      | .ioLatch _ | .evSw _ | .rsPor _ | .rsOth _ => True
    (guard → ∃ s', exec i s = .next s') ∧ (¬ guard → exec i s = .fault .noStep)

/-! ### What each operation does -/

/-- 40_startup.md R140-R142: the startup handler's writes, in every state its words are enabled in; all other fields
unchanged. -/
def Obligations.StartupWordsDoTheirWrites : Prop :=
  ∀ (s : State), s.ctx = .main →
    (s.mpc = .suCli → exec .suCli s = .next { s with gie := false, mpc := .suClrrc }) ∧
    (s.mpc = .suClrrc → exec .suClrrc s = .next { s with rcf := 0, mpc := .suWdoff }) ∧
    (s.mpc = .suWdoff → (s.cfg.wdtOffNeedsRcfClear = true ∧ s.rcf.getLsbD 2 = true) →
      exec .suWdoff s = .next { s with mpc := .inClk }) ∧
    (s.mpc = .suWdoff → ¬ (s.cfg.wdtOffNeedsRcfClear = true ∧ s.rcf.getLsbD 2 = true) →
      exec .suWdoff s = .next { s with wdtEn := false, mpc := .inClk })

/-- 41_peripheral_init.md R160-R165: the clock and timer words of the initialiser; all other fields unchanged. IN.TCMP
writes the value in effect too unless the timer runs in PWM mode with buffering (42_pwm_timer.md R190). -/
def Obligations.TimerInitialiserWordsDoTheirWrites : Prop :=
  ∀ (s : State), s.ctx = .main →
    (s.mpc = .inClk → exec .inClk s = .next { s with clkdiv := s.cfg.clkDivCfg, mpc := .inTcnt0 }) ∧
    (s.mpc = .inTcnt0 → exec .inTcnt0 s = .next { s with tcnt := 0, mpc := .inTcmp }) ∧
    (s.mpc = .inTcmp → ¬ (s.cfg.cmpBuffered = true ∧ s.tmode = 1) →
      exec .inTcmp s = .next { s with tcmp := BitVec.ofNat 8 s.cfg.pwmCenter,
                                      tcmpa := BitVec.ofNat 8 s.cfg.pwmCenter, mpc := .inTtop }) ∧
    (s.mpc = .inTcmp → s.cfg.cmpBuffered = true ∧ s.tmode = 1 →
      exec .inTcmp s = .next { s with tcmp := BitVec.ofNat 8 s.cfg.pwmCenter, mpc := .inTtop }) ∧
    (s.mpc = .inTtop → exec .inTtop s = .next { s with ttop := s.cfg.pwmTop, mpc := .inTmode }) ∧
    (s.mpc = .inTmode → exec .inTmode s = .next { s with tmode := 1, tcom := 1, tcs := 1, toc := true, mpc := .inTirq }) ∧
    (s.mpc = .inTirq → exec .inTirq s = .next { s with tie := 0, mpc := .inAmux })

/-- 41_peripheral_init.md R166-R170: the ADC and pin words of the initialiser and the global interrupt enable; all other
fields unchanged. -/
def Obligations.AdcAndPinInitialiserWordsDoTheirWrites : Prop :=
  ∀ (s : State), s.ctx = .main →
    (s.mpc = .inAmux →
      exec .inAmux s = .next { s with aref := s.cfg.adcRef, ach := s.cfg.adcCh, alar := true, mpc := .inActl }) ∧
    (s.mpc = .inActl →
      exec .inActl s = .next { s with aen := true, aate := true, aie := true, aps := s.cfg.adcPs, arun := true,
                                      mpc := .inGdir }) ∧
    (s.mpc = .inGdir → exec .inGdir s = .next { s with gdir := BitVec.ofNat 8 (2 ^ s.cfg.pwmPin), mpc := .inGpue }) ∧
    (s.mpc = .inGpue →
      exec .inGpue s = .next { s with gpue := BitVec.ofNat 8 (2 ^ s.cfg.swPin), gout := 0, mpc := .sei }) ∧
    (s.mpc = .sei → exec .mlSei s = .next { s with gie := true, mpc := .settle })

/-- 42_pwm_timer.md R190: WriteCMP writes the value in effect at once, or holds it while `CMP_BUFFERED` and PWM mode
hold, and touches nothing else; IN.TCMP, ML.CENTER and ML.MWRITE are its callers, with their values, and no other
operation but a reset changes the register. -/
def Obligations.CompareWritesGoThroughWriteCmp : Prop :=
  (∀ (s : State) (v : Byte),
    (s.cfg.cmpBuffered = true ∧ s.tmode = 1 → s.writeCmp v = { s with tcmp := v }) ∧
    (¬ (s.cfg.cmpBuffered = true ∧ s.tmode = 1) → s.writeCmp v = { s with tcmp := v, tcmpa := v })) ∧
  (∀ (s s' : State),
    (exec .inTcmp s = .next s' →
      s' = { s.writeCmp (BitVec.ofNat 8 s.cfg.pwmCenter) with mpc := .inTtop }) ∧
    (exec .mlCenter s = .next s' →
      s' = { s.writeCmp (BitVec.ofNat 8 s.cfg.pwmCenter) with mpc := .record }) ∧
    (exec .mlMwrite s = .next s' → s' = { s.writeCmp (scale s.cfg s.t) with mpc := .record })) ∧
  (∀ (i : Instr) (s s' : State), exec i s = .next s' → i.isReset = false → s'.tcmp ≠ s.tcmp →
    i = .inTcmp ∨ i = .mlCenter ∨ i = .mlMwrite)

/-- 42_pwm_timer.md R191: one timer clock, with the two fault marks of the states the model gives no waveform. The
counter is compared before its increment; at a period start the buffered value is copied and the output set. -/
def Obligations.TickCountsAndDrivesTheOutput : Prop :=
  ∀ (s : State), s.tcs ≠ 0 →
    ((2 ≤ s.tmode.toNat ∨ 2 ≤ s.tcom.toNat ∨ 2 ≤ s.tcs.toNat) →
      exec .tmTick s = .next { s with fault := some .timerFieldReserved }) ∧
    (¬ (2 ≤ s.tmode.toNat ∨ 2 ≤ s.tcom.toNat ∨ 2 ≤ s.tcs.toNat) →
      (s.tmode ≠ 1 → exec .tmTick s = .next { s with fault := some .timerModeUnmodelled }) ∧
      (s.tmode = 1 → ∀ c', c' = (if s.tcnt = s.ttop then 0 else (s.tcnt + 1) % 2 ^ s.cfg.wT) →
        (c' = 0 → s.cfg.cmpBuffered = true →
          exec .tmTick s = .next { s with tcmpa := s.tcmp, toc := true, tcnt := 0 }) ∧
        (c' = 0 → s.cfg.cmpBuffered = false → exec .tmTick s = .next { s with toc := true, tcnt := 0 }) ∧
        (c' ≠ 0 → s.tcnt = s.tcmpa.toNat → exec .tmTick s = .next { s with toc := false, tcnt := c' }) ∧
        (c' ≠ 0 → s.tcnt ≠ s.tcmpa.toNat → exec .tmTick s = .next { s with tcnt := c' })))

/-- 42_pwm_timer.md R197: a tick in a state with a reserved timer field sets the fault mark, and no operation makes a
field reserved. -/
def Obligations.ReservedTimerFieldsFault : Prop :=
  let reserved : State → Prop := fun s => 2 ≤ s.tmode.toNat ∨ 2 ≤ s.tcom.toNat ∨ 2 ≤ s.tcs.toNat
  (∀ (s s' : State), reserved s → exec .tmTick s = .next s' → s' = { s with fault := some .timerFieldReserved }) ∧
  (∀ (s : State), reserved s → s.tcs ≠ 0 → ∃ s', exec .tmTick s = .next s') ∧
  (∀ (i : Instr) (s s' : State), exec i s = .next s' → ¬ reserved s → ¬ reserved s')

/-- 43_adc_sample_capture.md R230, R231: a conversion's end writes the result, raises the request and starts the next
conversion when free running; a second one before entry leaves one request and the newer result. -/
def Obligations.ConversionWritesResultAndRaisesTheRequest : Prop :=
  ∀ (s : State) (v : Byte), s.aen = true → s.arun = true →
    exec (.adDone v) s = .next { s with aresh := v, aif := true, arun := s.aate } ∧
    (s.fault = none → s.refused = none → s.aate = true → ∀ x : Byte,
      runTrace [.adDone v, .adDone x] s = .next { s with aresh := x, aif := true, arun := true })

/-- 60_exceptions.md R350, R351 and 43_adc_sample_capture.md R240: entry, capture and return, with all they leave
unchanged; a right-aligned result sets the fault mark. -/
def Obligations.InterruptEntryCaptureAndReturn : Prop :=
  ∀ (s : State),
    (s.ctx = .main → s.gie = true → s.aie = true → s.aif = true →
      exec .isEnter s = .next { s with aif := false, gie := false, ctx := .isr, ipc := .capture }) ∧
    (s.ctx = .isr → s.ipc = .capture → s.alar = true →
      exec .isCapture s = .next { s with sample := s.aresh, ipc := .ret }) ∧
    (s.ctx = .isr → s.ipc = .capture → s.alar = false →
      exec .isCapture s = .next { s with fault := some .adcAlignmentUnmodelled }) ∧
    (s.ctx = .isr → s.ipc = .ret → exec .isReturn s = .next { s with gie := true, ctx := .main })

/-- 44_gpio_latch.md R272, R274: the latch samples every pad of the port at once, a floating one as the draw says; the
environment moves the contact. That the two meanings themselves set the mark BadArg on an argument outside the legal set
is the model's choice (log entry 19): 30_encoding.md R117 gives that outcome at decode. -/
def Obligations.LatchSamplesThePadsAndTheSwitchMoves : Prop :=
  ∀ (s : State) (a : Byte),
    (a.toNat < 2 ^ s.cfg.nPins → s.cfg.nPins ≤ 8 →
      ∃ g : Byte, exec (.ioLatch a) s = .next { s with gpin := g } ∧
        (∀ p, p < s.cfg.nPins →
          g.getLsbD p = (match pad p s with
            | .low => false
            | .high => true
            | .floating => a.getLsbD p)) ∧
        (∀ p, s.cfg.nPins ≤ p → g.getLsbD p = false)) ∧
    (¬ a.toNat < 2 ^ s.cfg.nPins → exec (.ioLatch a) s = .next { s with refused := some .badArg }) ∧
    (exec (.evSw 0) s = .next { s with swc := .closedContact }) ∧
    (exec (.evSw 1) s = .next { s with swc := .openContact }) ∧
    (1 < a.toNat → exec (.evSw a) s = .next { s with refused := some .badArg })

/-- 44_gpio_latch.md R270: the pad function, and what it gives on each pin before and after initialisation. -/
def Obligations.PadLevels : Prop :=
  (∀ (s : State) (p : Nat),
    pad p s =
      if s.gdir.getLsbD p = true then
        if p = s.cfg.pwmPin ∧ s.tcom = 1 then (if s.toc = true then .high else .low)
        else (if s.gout.getLsbD p = true then .high else .low)
      else if p = s.cfg.swPin ∧ s.swc = .closedContact then .low
      else if s.gpue.getLsbD p = true then .high
      else .floating) ∧
  (∀ (s : State) (p : Nat), Reachable s → p < s.cfg.nPins →
    (13 ≤ s.mpc.code →
      (p = s.cfg.pwmPin → pad p s = if s.toc = true then .high else .low) ∧
      (p = s.cfg.swPin → pad p s = if s.swc = .closedContact then .low else .high) ∧
      (p ≠ s.cfg.pwmPin → p ≠ s.cfg.swPin → pad p s = .floating)) ∧
    (s.mpc.code ≤ 11 → s.gdir.getLsbD p = false) ∧
    (s.mpc.code ≤ 12 → s.gdir.getLsbD p = false →
      ¬ (p = s.cfg.swPin ∧ s.swc = .closedContact) → pad p s = .floating))

/-- 45_control_loop.md R300-R307: the words of the control loop; all other fields unchanged. The compare writes are
WriteCMP of PWM_CENTER and of the scaled sample (42_pwm_timer.md R190). -/
def Obligations.LoopWordsDoTheirWrites : Prop :=
  ∀ (s : State), s.ctx = .main →
    (s.mpc = .settle → exec .mlSettle s = .next { s with mpc := .seed }) ∧
    (s.mpc = .seed → exec .mlSeed s = .next { s with prev := false, mpc := .read }) ∧
    (s.mpc = .read → exec .mlRead s = .next { s with sw := switchState s.cfg s.gpin, mpc := .decide }) ∧
    (s.mpc = .decide → s.sw = true → s.prev = false →
      exec .mlCenter s = .next { s.writeCmp (BitVec.ofNat 8 s.cfg.pwmCenter) with mpc := .record }) ∧
    (s.mpc = .decide → s.sw = false → exec .mlMread s = .next { s with t := s.sample, mpc := .mwrite }) ∧
    (s.mpc = .decide → s.sw = true → s.prev = true → exec .mlSkip s = .next { s with mpc := .record }) ∧
    (s.mpc = .mwrite → exec .mlMwrite s = .next { s.writeCmp (scale s.cfg s.t) with mpc := .record }) ∧
    (s.mpc = .record → exec .mlRecord s = .next { s with prev := s.sw, mpc := .read })

/-- 70_reset_and_hazards.md R401, R402, R404, R405 with the table of 10_state.md R66: every field after each reset word,
in every state the word is enabled in. The spec gives `sw`, `t` and `PREV` no value there: that each holds some value left
open is the model's choice (log entry 8). The state after a power-on reset is a launch state. -/
def Obligations.ResetWordsGiveTheResetState : Prop :=
  ∀ (s : State) (v : Byte),
    ∃ (d : Nat) (a p : Bool) (b : Byte),
      let r : State :=
        { s with draws := d, sw := a, t := b, prev := p, sample := v
                 ctx := .main, mpc := .suCli, ipc := .capture, gie := false, clkdiv := s.cfg.clkDivReset
                 tmode := 0, tcom := 0, tcs := 0, tie := 0, tcnt := 0, ttop := 0, tcmp := 0, tcmpa := 0, toc := false
                 aref := 0, ach := 0, alar := false, aen := false, arun := false, aate := false, aif := false
                 aie := false, aps := 0, aresh := 0, gdir := 0, gout := 0, gpue := 0, gpin := 0 }
      exec (.rsPor v) s = .next { r with rcf := 0b001, wdtEn := s.cfg.wdtPorEn, wdtTo := 0 } ∧
      (s.wdtEn = true → exec (.rsWdt v) s = .next { r with rcf := s.rcf ||| 0b100, wdtEn := true, wdtTo := 0 }) ∧
      exec (.rsOth v) s = .next { r with rcf := s.rcf ||| 0b010 } ∧
      (s.cfg.wf = true → s.fault = none → s.refused = none →
        IsLaunch { r with rcf := 0b001, wdtEn := s.cfg.wdtPorEn, wdtTo := 0 })

/-! ### The scaling function and the switch decode -/

/-- 45_control_loop.md R308: the scaling function on naturals, equal to the source's expression with the division taken
exactly; with the default constants `123 + (123 * s) div 255`. -/
def Obligations.ScaleIsTheExactQuotient : Prop :=
  ∀ (c : Cfg) (x : Byte), c.wf = true →
    (scale c x).toNat = c.pwmLow + (x.toNat * (c.pwmHigh - c.pwmLow)) / 255 ∧
    ((scale c x).toNat : ℤ) = ⌊((x.toNat : ℚ) * ((c.pwmHigh : ℚ) - (c.pwmLow : ℚ))) / 255⌋ + (c.pwmLow : ℤ) ∧
    (c.pwmLow = 123 → c.pwmHigh = 246 → (scale c x).toNat = 123 + (123 * x.toNat) / 255)

/-- 45_control_loop.md R310: the end points, monotony, range, the only sample that reaches the top, steps of at most
one, every value in range hit, and the many-to-one values of the default constants. -/
def Obligations.ScaleMapsOntoTheRange : Prop :=
  ∀ (c : Cfg), c.wf = true →
    (scale c 0).toNat = c.pwmLow ∧ (scale c 255).toNat = c.pwmHigh ∧
    (∀ x y : Byte, x.toNat ≤ y.toNat → (scale c x).toNat ≤ (scale c y).toNat) ∧
    (∀ x : Byte, c.pwmLow ≤ (scale c x).toNat ∧ (scale c x).toNat ≤ c.pwmHigh) ∧
    (c.pwmHigh - c.pwmLow < 255 → c.pwmLow < c.pwmHigh → ∀ x : Byte, (scale c x).toNat = c.pwmHigh → x = 255) ∧
    (∀ x y : Byte, y.toNat = x.toNat + 1 → (scale c y).toNat ≤ (scale c x).toNat + 1) ∧
    (∀ k, c.pwmLow ≤ k → k ≤ c.pwmHigh → ∃ x : Byte, (scale c x).toNat = k) ∧
    (c.pwmLow = 123 → c.pwmHigh = 246 →
      scale c 0 = 123 ∧ scale c 1 = 123 ∧ scale c 2 = 123 ∧ scale c 127 = 184 ∧ scale c 128 = 184)

/-- 45_control_loop.md R309, without the IEEE formats: any rounding of the quotient that errs by less than 1/255 and is
exact on integers gives the same compare value as the exact division. -/
def Obligations.ScaleEqualsTheRoundedQuotient : Prop :=
  ∀ (c : Cfg) (x : Byte) (q : ℚ), c.wf = true →
    |q - ((x.toNat * (c.pwmHigh - c.pwmLow) : ℕ) : ℚ) / 255| < 1 / 255 →
    (255 ∣ x.toNat * (c.pwmHigh - c.pwmLow) → q = ((x.toNat * (c.pwmHigh - c.pwmLow) : ℕ) : ℚ) / 255) →
    ((scale c x).toNat : ℤ) = ⌊q⌋ + (c.pwmLow : ℤ)

/-! ### Who writes what -/

/-- 10_state.md R62, R63 (the access column), R56-R58, 43_adc_sample_capture.md R241: but for the reset words, each
field is changed only by the words named for it, and the model's own fields by none; a reset leaves the contact, the
configuration and the marks. -/
def Obligations.FieldsChangeOnlyByTheirNamedWords : Prop :=
  ∀ (i : Instr) (s s' : State), exec i s = .next s' →
    (s'.cfg = s.cfg ∧ s'.trace = s.trace) ∧
    (i.isReset = true → s'.swc = s.swc ∧ s'.fault = s.fault ∧ s'.refused = s.refused) ∧
    (i.isReset = false →
      s'.draws = s.draws ∧
      (s'.ctx ≠ s.ctx → i = .isEnter ∨ i = .isReturn) ∧
      (s'.mpc ≠ s.mpc → i.isMain = true) ∧
      (s'.ipc ≠ s.ipc → i = .isEnter ∨ i = .isCapture) ∧
      (s'.gie ≠ s.gie → i = .suCli ∨ i = .mlSei ∨ i = .isEnter ∨ i = .isReturn) ∧
      (s'.sw ≠ s.sw → i = .mlRead) ∧ (s'.t ≠ s.t → i = .mlMread) ∧
      (s'.rcf ≠ s.rcf → i = .suClrrc) ∧ (s'.wdtEn ≠ s.wdtEn → i = .suWdoff) ∧ s'.wdtTo = s.wdtTo ∧
      (s'.clkdiv ≠ s.clkdiv → i = .inClk) ∧
      (s'.tmode ≠ s.tmode ∨ s'.tcom ≠ s.tcom ∨ s'.tcs ≠ s.tcs → i = .inTmode) ∧
      (s'.tie ≠ s.tie → i = .inTirq) ∧
      (s'.tcnt ≠ s.tcnt → i = .inTcnt0 ∨ i = .tmTick) ∧ (s'.ttop ≠ s.ttop → i = .inTtop) ∧
      (s'.tcmp ≠ s.tcmp → i = .inTcmp ∨ i = .mlCenter ∨ i = .mlMwrite) ∧
      (s'.tcmpa ≠ s.tcmpa → i = .inTcmp ∨ i = .mlCenter ∨ i = .mlMwrite ∨ i = .tmTick) ∧
      (s'.toc ≠ s.toc → i = .inTmode ∨ i = .tmTick) ∧
      (s'.aref ≠ s.aref ∨ s'.ach ≠ s.ach ∨ s'.alar ≠ s.alar → i = .inAmux) ∧
      (s'.aen ≠ s.aen ∨ s'.aate ≠ s.aate ∨ s'.aie ≠ s.aie ∨ s'.aps ≠ s.aps → i = .inActl) ∧
      (s'.arun ≠ s.arun → i = .inActl ∨ ∃ v, i = .adDone v) ∧
      (s'.aif ≠ s.aif → i = .isEnter ∨ ∃ v, i = .adDone v) ∧
      (s'.aresh ≠ s.aresh → ∃ v, i = .adDone v) ∧
      (s'.gdir ≠ s.gdir → i = .inGdir) ∧ (s'.gout ≠ s.gout ∨ s'.gpue ≠ s.gpue → i = .inGpue) ∧
      (s'.gpin ≠ s.gpin → ∃ v, i = .ioLatch v) ∧
      (s'.sample ≠ s.sample → i = .isCapture) ∧
      (s'.prev ≠ s.prev → i = .mlSeed ∨ i = .mlRecord) ∧
      (s'.swc ≠ s.swc → ∃ v, i = .evSw v) ∧
      (s'.fault ≠ s.fault → i = .tmTick ∨ i = .isCapture) ∧
      (s'.refused ≠ s.refused → (∃ v, i = .ioLatch v) ∨ ∃ v, i = .evSw v))

/-- 10_state.md R64: the flags after each operation. Entry clears `aif` and `gie`, return sets `gie`, AD.DONE sets `aif`,
a reset sets one reset cause; the scaling arithmetic writes none. -/
def Obligations.FlagsAfterEachOperation : Prop :=
  ∀ (i : Instr) (s s' : State), exec i s = .next s' →
    (s'.gie = match i with
      | .suCli | .isEnter | .rsPor _ | .rsWdt _ | .rsOth _ => false
      | .mlSei | .isReturn => true
      | _ => s.gie) ∧
    (s'.aif = match i with
      | .adDone _ => true
      | .isEnter | .rsPor _ | .rsWdt _ | .rsOth _ => false
      | _ => s.aif) ∧
    (s'.rcf = match i with
      | .suClrrc => 0b000
      | .rsPor _ => 0b001
      | .rsWdt _ => s.rcf ||| 0b100
      | .rsOth _ => s.rcf ||| 0b010
      | _ => s.rcf)

/-- 10_state.md R62 (the layout), R63: every register's value has its fields at the spec's bit positions and 0 in its
reserved bits, and fits its width. The packing is a view (log entry 14). -/
def Obligations.RegistersPackTheirFields : Prop :=
  ∀ (s : State), BlockInv s →
    (∀ r : RegName, regValue r s < 2 ^ regWidth r s.cfg) ∧
    regValue .cpusr s = 128 * s.gie.toNat ∧
    regValue .rstcause s = s.rcf.toNat ∧
    regValue .wdtctl s = s.wdtTo.toNat + 8 * s.wdtEn.toNat ∧
    regValue .clkctl s = s.clkdiv.toNat ∧
    regValue .tctl s = s.tmode.toNat + 4 * s.tcom.toNat + 16 * s.tcs.toNat ∧
    regValue .tie s = s.tie.toNat ∧
    regValue .tcnt s = s.tcnt ∧ regValue .ttop s = s.ttop ∧ regValue .tcmp s = s.tcmp.toNat ∧
    regValue .amux s = s.ach.toNat + 32 * s.alar.toNat + 64 * s.aref.toNat ∧
    regValue .actl s = s.aps.toNat + 8 * s.aie.toNat + 16 * s.aif.toNat + 32 * s.aate.toNat + 64 * s.arun.toNat
      + 128 * s.aen.toNat ∧
    regValue .aresh s = s.aresh.toNat ∧ regValue .gdir s = s.gdir.toNat ∧ regValue .gout s = s.gout.toNat ∧
    regValue .gpue s = s.gpue.toNat ∧ regValue .gpin s = s.gpin.toNat

/-! ### The invariant, and what the reachable states hold -/

/-- The invariant of the block holds right after reset, and in every launch state of a well-formed configuration
(10_state.md R66, R67). -/
def Obligations.LaunchStatesMeetTheInvariant : Prop :=
  BlockInv State.reset ∧ ∀ s : State, IsLaunch s → BlockInv s

/-- Every step, of any word the trace or the free schedule gives, keeps the invariant: the phase-by-phase facts of
10_state.md R34 and the rules named in `BlockInv`, from every state that has it. -/
def Obligations.EveryStepKeepsTheInvariant : Prop :=
  ∀ (s s' : State), BlockInv s → step s = .next s' → BlockInv s'

/-- 10_state.md R60, 60_exceptions.md R357: no reachable state has a mark, and no word that decodes sets one there. -/
def Obligations.ReachableStatesAreUnmarked : Prop :=
  ∀ (s : State), Reachable s → s.fault = none ∧ s.refused = none ∧
    ∀ (i : Instr) (s' : State), Steps s i s' → s'.fault = none ∧ s'.refused = none

/-- 45_control_loop.md R311: the range of the compare register and of the value in effect after IN.TCMP; before it both
are 0, with the timer stopped and the PWM pin undriven. -/
def Obligations.CompareStaysInTheServoSafeRange : Prop :=
  ∀ (s : State), Reachable s →
    (6 ≤ s.mpc.code →
      s.cfg.pwmLow ≤ s.tcmp.toNat ∧ s.tcmp.toNat ≤ s.cfg.pwmHigh ∧
      s.cfg.pwmLow ≤ s.tcmpa.toNat ∧ s.tcmpa.toNat ≤ s.cfg.pwmHigh) ∧
    (s.mpc.code ≤ 5 → s.tcmp = 0 ∧ s.tcmpa = 0 ∧ s.tcs = 0 ∧ pad s.cfg.pwmPin s = .floating)

/-- 41_peripheral_init.md R171: what holds in every reachable state about to enable interrupts. -/
def Obligations.InitialiserPostcondition : Prop :=
  ∀ (s : State), Reachable s → s.mpc = .sei →
    s.tcmp.toNat = s.cfg.pwmCenter ∧ s.tcmpa.toNat = s.cfg.pwmCenter ∧ s.ttop = s.cfg.pwmTop ∧
    s.tmode = 1 ∧ s.tcom = 1 ∧ s.tcs = 1 ∧ s.tie = 0 ∧
    s.alar = true ∧ s.aen = true ∧ s.aate = true ∧ s.aie = true ∧ s.arun = true ∧
    s.gdir = BitVec.ofNat 8 (2 ^ s.cfg.pwmPin) ∧ s.gpue = BitVec.ofNat 8 (2 ^ s.cfg.swPin) ∧ s.gout = 0 ∧
    s.gie = false ∧ s.wdtEn = false

/-- 41_peripheral_init.md R172: no interrupt is entered before ML.SEI; completions before it leave one request
pending. -/
def Obligations.NoInterruptBeforeTheEnable : Prop :=
  ∀ (s : State), Reachable s → s.mpc.code ≤ 13 →
    s.gie = false ∧ exec .isEnter s = .fault .noStep ∧
    (∀ (vs : List Byte) (s' : State), vs ≠ [] → takeWords (vs.map Instr.adDone) s = .next s' →
      s'.aif = true ∧ s'.gie = false ∧ vs.getLast? = some s'.aresh)

/-- 40_startup.md R143, 70_reset_and_hazards.md R421: SU.WDOFF disarms the watchdog in every reachable state that runs
it; then no operation arms it and RS.WDT has no step, until a reset; the armed states are those before SU.WDOFF. -/
def Obligations.WatchdogStaysOffUntilAReset : Prop :=
  (∀ (s : State), Reachable s → s.ctx = .main → s.mpc = .suWdoff →
    exec .suWdoff s = .next { s with wdtEn := false, mpc := .inClk }) ∧
  (∀ (is : List Instr) (s s' : State), s.wdtEn = false → (∀ i ∈ is, i.isReset = false) →
    takeWords is s = .next s' → s'.wdtEn = false ∧ ∀ v, exec (.rsWdt v) s' = .fault .noStep) ∧
  (∀ (s : State), Reachable s → s.wdtEn = true → s.mpc = .suCli ∨ s.mpc = .suClrrc ∨ s.mpc = .suWdoff)

/-- 42_pwm_timer.md R198: a tick in a reachable state writes only the counter, the value in effect and the output, and
raises no interrupt request; the timer is stopped from every reset until IN.TMODE and runs after it. -/
def Obligations.TimerWritesOnlyItsOwnState : Prop :=
  (∀ (s s' : State), Reachable s → exec .tmTick s = .next s' →
    s' = { s with tcnt := s'.tcnt, tcmpa := s'.tcmpa, toc := s'.toc }) ∧
  (∀ (s : State), Reachable s → s.tie = 0 ∧
    (s.mpc.code ≤ 7 → s.tcs = 0 ∧ exec .tmTick s = .fault .noStep) ∧
    (8 ≤ s.mpc.code → ∃ s', exec .tmTick s = .next s'))

/-- 42_pwm_timer.md R192: with buffering, in PWM mode, the value in effect changes only at a period start and then takes
the register's value; without buffering the two are equal in every reachable state after IN.TCMP. -/
def Obligations.BufferedCompareChangesOnlyAtAPeriodStart : Prop :=
  (∀ (i : Instr) (s s' : State), s.cfg.cmpBuffered = true → s.tmode = 1 → i.isReset = false → exec i s = .next s' →
    (s'.tcmpa ≠ s.tcmpa → i = .tmTick ∧ s'.tcnt = 0) ∧
    (i = .tmTick → s'.fault = none → s'.tcnt = 0 → s'.tcmpa = s.tcmp)) ∧
  (∀ (s : State), Reachable s → s.cfg.cmpBuffered = false → 6 ≤ s.mpc.code → s.tcmpa = s.tcmp)

/-- 42_pwm_timer.md R193: from a period start with compare value `k` in effect, after `j` ticks of the period the counter
is `j` and the output is high exactly when `j ≤ k`; the next tick starts a new period with the output high. The first
period after IN.TMODE starts so, in every reachable state that runs it. -/
def Obligations.PeriodHasOnePulseOfTheCompareValue : Prop :=
  (∀ (s : State) (j : Nat), s.fault = none → s.refused = none → s.tmode = 1 → s.tcom = 1 → s.tcs = 1 →
    s.ttop < 2 ^ s.cfg.wT → s.tcnt = 0 → s.toc = true → j ≤ s.ttop →
    runTrace (List.replicate j .tmTick) s =
      .next { s with tcnt := j, toc := decide (j ≤ s.tcmpa.toNat) }) ∧
  (∀ (s : State), s.fault = none → s.refused = none → s.tmode = 1 → s.tcom = 1 → s.tcs = 1 →
    s.ttop < 2 ^ s.cfg.wT → s.tcnt = 0 → s.toc = true →
    runTrace (tmPeriod s) s =
      .next { s with tcmpa := if s.cfg.cmpBuffered = true then s.tcmp else s.tcmpa, tcnt := 0, toc := true }) ∧
  (∀ (s s' : State), Reachable s → exec .inTmode s = .next s' →
    s'.tcnt = 0 ∧ s'.toc = true ∧ s'.tmode = 1 ∧ s'.tcom = 1 ∧ s'.tcs = 1 ∧ s'.ttop < 2 ^ s'.cfg.wT)

/-- 42_pwm_timer.md R194, 44_gpio_latch.md R271: in every reachable state after IN.TMODE the period is that of PWM_TOP,
longer than every compare value; with buffering, whatever words interleave, the output is high exactly while the
counter has not passed the compare value in effect, which lies in the servo-safe range. -/
def Obligations.OutputIsHighUpToTheCompareValue : Prop :=
  ∀ (s : State), Reachable s → 8 ≤ s.mpc.code →
    s.ttop = s.cfg.pwmTop ∧ s.tcnt ≤ s.ttop ∧ s.tcmpa.toNat < s.ttop ∧ s.cfg.pwmHigh < s.ttop ∧
    (s.cfg.cmpBuffered = true →
      s.toc = decide (s.tcnt ≤ s.tcmpa.toNat) ∧ s.cfg.pwmLow ≤ s.tcmpa.toNat ∧ s.tcmpa.toNat ≤ s.cfg.pwmHigh)

/-- 42_pwm_timer.md R196: without buffering, what a compare write does to the rest of the period: after `j` more ticks
within it the output is high exactly if it was high and the counter has not met the written value since. -/
def Obligations.UnbufferedWriteReshapesThePeriod : Prop :=
  ∀ (s : State) (v : Byte) (j : Nat), s.fault = none → s.refused = none → s.cfg.cmpBuffered = false →
    s.tmode = 1 → s.tcom = 1 → s.tcs = 1 → s.ttop < 2 ^ s.cfg.wT → s.tcnt + j ≤ s.ttop →
    ∃ s', runTrace (List.replicate j .tmTick) (s.writeCmp v) = .next s' ∧ s'.tcnt = s.tcnt + j ∧
      (v.toNat < s.tcnt → s'.toc = s.toc) ∧
      (s.toc = false → s'.toc = false) ∧
      (s.tcnt ≤ v.toNat → s.toc = true → s'.toc = decide (s.tcnt + j ≤ v.toNat))

/-- 44_gpio_latch.md R271: the PWM pin is undriven from reset until IN.GDIR and carries the output latch after it. -/
def Obligations.PwmPinCarriesTheOutputLatch : Prop :=
  ∀ (s : State), Reachable s →
    (s.mpc.code ≤ 11 → pad s.cfg.pwmPin s = .floating) ∧
    (12 ≤ s.mpc.code → s.tcom = 1 ∧ pad s.cfg.pwmPin s = if s.toc = true then .high else .low)

/-- 44_gpio_latch.md R280, R281: the decode is the latch's bit at the switch pin; after IN.GPUE the latch takes an open
switch as CENTER and a closed one as MANUAL whatever floats; before it an open switch can latch either way. -/
def Obligations.SwitchLatchesAsCenterOrManual : Prop :=
  (∀ (c : Cfg) (g : Byte), c.wf = true → switchState c g = g.getLsbD c.swPin) ∧
  (∀ (s s' : State) (ff : Byte), Reachable s → 13 ≤ s.mpc.code → Steps s (.ioLatch ff) s' →
    pad s.cfg.swPin s ≠ .floating ∧ switchState s'.cfg s'.gpin = decide (s.swc = .openContact)) ∧
  (∀ (s : State) (b : Bool), Reachable s → s.mpc.code ≤ 12 → s.swc = .openContact →
    ∃ (ff : Byte) (s' : State), Steps s (.ioLatch ff) s' ∧ switchState s'.cfg s'.gpin = b)

/-! ### The control loop -/

/-- 45_control_loop.md R312: at DECIDE in the main context exactly one of ML.CENTER, ML.MREAD and ML.SKIP has a step,
selected by `sw` and `PREV`. -/
def Obligations.ExactlyOneDecideWordIsEnabled : Prop :=
  ∀ (s : State), s.ctx = .main → s.mpc = .decide →
    (s.sw = false →
      (∃ s', exec .mlMread s = .next s') ∧ exec .mlCenter s = .fault .noStep ∧ exec .mlSkip s = .fault .noStep) ∧
    (s.sw = true → s.prev = false →
      (∃ s', exec .mlCenter s = .next s') ∧ exec .mlMread s = .fault .noStep ∧ exec .mlSkip s = .fault .noStep) ∧
    (s.sw = true → s.prev = true →
      (∃ s', exec .mlSkip s = .next s') ∧ exec .mlMread s = .fault .noStep ∧ exec .mlCenter s = .fault .noStep)

/-- 45_control_loop.md R313: after an iteration that read MANUAL, or after the seed, an iteration that reads CENTER
executes ML.CENTER and leaves PWM_CENTER in the register, whatever words of other agents come between and whatever the
sample and the temporary hold. -/
def Obligations.TransitionIntoCenterWritesTheCenter : Prop :=
  ∀ (is : List Instr) (s u : State), (s.mpc = .record ∧ s.sw = false) ∨ s.mpc = .seed →
    (∀ i ∈ is, i.isReset = false) → is.count .mlRead = 1 → takeWords is s = .next u →
    u.ctx = .main → u.mpc = .decide → u.sw = true →
    exec .mlMread u = .fault .noStep ∧ exec .mlSkip u = .fault .noStep ∧
    ∃ u', exec .mlCenter u = .next u' ∧ u'.tcmp = BitVec.ofNat 8 u.cfg.pwmCenter ∧
      ∀ (v x : Byte), ∃ u'', exec .mlCenter { u with sample := v, t := x } = .next u'' ∧ u''.tcmp = u'.tcmp

/-- 45_control_loop.md R314, R315: in any run of consecutive iterations without a reset, whatever words of other agents
come between: if every ML.READ finds CENTER, the main context's words are those of one iteration with ML.CENTER, exactly
if the iteration before read MANUAL or the seed came before, and of iterations with ML.SKIP, so the register is written
at most once; if every ML.READ finds MANUAL, every iteration is one with ML.MREAD and ML.MWRITE, and each of these
writes the scaled sample its iteration read. The last clause: with nothing between, any number of iterations has its
steps, with the whole end state. -/
def Obligations.CenterIsWrittenOnEntryAndManualAlways : Prop :=
  (∀ (is : List Instr) (s e : State), (∀ i ∈ is, i.isReset = false) → takeWords is s = .next e →
    (ReadsOnly true is s →
      (s.mpc = .record → s.sw = false → ∃ n : Nat,
        is.filter Instr.isMain <+: .mlRecord :: (iterCenter ++ (List.replicate n iterSkip).flatten)) ∧
      (s.mpc = .seed → ∃ n : Nat,
        is.filter Instr.isMain <+: .mlSeed :: (iterCenter ++ (List.replicate n iterSkip).flatten)) ∧
      (s.mpc = .record → s.sw = true → ∃ n : Nat,
        is.filter Instr.isMain <+: .mlRecord :: (List.replicate n iterSkip).flatten) ∧
      (s.mpc = .record ∨ s.mpc = .seed →
        e.tcmp = if Instr.mlCenter ∈ is then BitVec.ofNat 8 s.cfg.pwmCenter else s.tcmp)) ∧
    (ReadsOnly false is s →
      (s.mpc = .record → ∃ n : Nat,
        is.filter Instr.isMain <+: .mlRecord :: (List.replicate n iterManual).flatten) ∧
      (s.mpc = .seed → ∃ n : Nat,
        is.filter Instr.isMain <+: .mlSeed :: (List.replicate n iterManual).flatten)) ∧
    (∀ (a b c : List Instr) (x u : State), is = a ++ .mlMread :: (b ++ .mlMwrite :: c) →
      (∀ i ∈ b, i.isMain = false) → takeWords a s = .next x → takeWords (a ++ .mlMread :: b) s = .next u →
      exec .mlMwrite u = .next { u.writeCmp (scale x.cfg x.sample) with mpc := .record })) ∧
  (∀ (s : State) (n : Nat), s.fault = none → s.refused = none → s.ctx = .main → s.mpc = .read →
    (switchState s.cfg s.gpin = true → s.prev = false →
      runTrace (iterCenter ++ (List.replicate n iterSkip).flatten) s =
        .next { s.writeCmp (BitVec.ofNat 8 s.cfg.pwmCenter) with sw := true, prev := true }) ∧
    (switchState s.cfg s.gpin = true → s.prev = true →
      runTrace (List.replicate (n + 1) iterSkip).flatten s = .next { s with sw := true }) ∧
    (switchState s.cfg s.gpin = false →
      runTrace (List.replicate (n + 1) iterManual).flatten s =
        .next { s.writeCmp (scale s.cfg s.sample) with sw := false, prev := false, t := s.sample }))

/-- 45_control_loop.md R316: from IN.TCMP until the first ML.CENTER or ML.MWRITE the register holds PWM_CENTER, whatever
else runs; and what each of the two then leaves. -/
def Obligations.CompareIsCenterUntilTheLoopWrites : Prop :=
  (∀ (is : List Instr) (s r e : State), exec .inTcmp s = .next r →
    (∀ i ∈ is, i.isReset = false ∧ i ≠ .mlCenter ∧ i ≠ .mlMwrite) → takeWords is r = .next e →
    e.tcmp = BitVec.ofNat 8 e.cfg.pwmCenter) ∧
  (∀ (s : State), Reachable s →
    (s.mpc = .sei ∨ s.mpc = .settle ∨ s.mpc = .seed) → s.tcmp = BitVec.ofNat 8 s.cfg.pwmCenter) ∧
  (∀ (is : List Instr) (u u' e : State), (exec .mlCenter u = .next u' ∨ exec .mlMwrite u = .next u') →
    (∀ i ∈ is, i.isReset = false ∧ i ≠ .mlRecord) → takeWords is u' = .next e →
    (exec .mlCenter u = .next u' → e.tcmp = BitVec.ofNat 8 u.cfg.pwmCenter) ∧
    (exec .mlMwrite u = .next u' → e.tcmp = scale u.cfg u.t))

/-- 45_control_loop.md R317: every value ML.MREAD reads is one that an IS.CAPTURE of the run wrote whole, or a reset
word's draw, or what the cell held at the start. -/
def Obligations.SampleReadIsOneWrittenWhole : Prop :=
  ∀ (is : List Instr) (s u u' : State), takeWords is s = .next u → exec .mlMread u = .next u' →
    u'.t = s.sample ∨
    (∃ i ∈ is, i = .rsPor u'.t ∨ i = .rsWdt u'.t ∨ i = .rsOth u'.t) ∨
    (∃ (a b : List Instr) (x : State), is = a ++ Instr.isCapture :: b ∧ takeWords a s = .next x ∧ x.aresh = u'.t)

/-- 43_adc_sample_capture.md R243: the cell holds what the result register held at the most recent capture, and what it
held before while nothing was captured, however many conversions have completed since. -/
def Obligations.SampleHoldsTheLastCapture : Prop :=
  ∀ (b : List Instr) (x u : State), (∀ i ∈ b, i.isReset = false ∧ i ≠ .isCapture) →
    (takeWords b x = .next u → u.sample = x.sample) ∧
    (x.alar = true → takeWords (Instr.isCapture :: b) x = .next u → u.sample = x.aresh)

/-- 45_control_loop.md R318: interrupts and other agents between ML.MREAD and ML.MWRITE can change the sample but not the
value written. -/
def Obligations.PreemptionDoesNotChangeTheWrittenValue : Prop :=
  ∀ (is : List Instr) (s r e f : State), exec .mlMread s = .next r →
    (∀ i ∈ is, i.isReset = false ∧ i.isMain = false) → takeWords is r = .next e → exec .mlMwrite e = .next f →
    f.tcmp = scale s.cfg s.sample ∧ (∃ g, exec .mlMwrite r = .next g ∧ g.tcmp = f.tcmp)

/-- 45_control_loop.md R319, 95_test_vectors.md M7: rapid switching with a fixed sample, any number of times: every CENTER
entry writes the center and every MANUAL iteration the scaled sample, overwriting it. -/
def Obligations.RapidSwitchingAlternatesTheWrites : Prop :=
  ∀ (s : State) (n : Nat), Reachable s → s.ctx = .main → s.mpc = .read → s.prev = false →
    ∃ (e c m : State),
      runTrace (List.replicate n
        [Instr.evSw 1, .ioLatch 0, .mlRead, .mlCenter, .mlRecord,
         .evSw 0, .ioLatch 0, .mlRead, .mlMread, .mlMwrite, .mlRecord]).flatten s = .next e ∧
      e.prev = false ∧ e.mpc = .read ∧ e.ctx = .main ∧ e.sample = s.sample ∧
      runTrace [.evSw 1, .ioLatch 0, .mlRead, .mlCenter, .mlRecord] e = .next c ∧
      c.tcmp = BitVec.ofNat 8 s.cfg.pwmCenter ∧
      runTrace [.evSw 0, .ioLatch 0, .mlRead, .mlMread, .mlMwrite, .mlRecord] c = .next m ∧
      m.tcmp = scale s.cfg s.sample

/-- 30_encoding.md R120 (d), 45_control_loop.md R302-R307: the loop always goes on: from READ in the main context, the
iteration the state selects runs to READ, recording the switch. -/
def Obligations.IterationRunsBackToRead : Prop :=
  ∀ (s : State), s.fault = none → s.refused = none → s.ctx = .main → s.mpc = .read →
    ∃ e, runTrace (mlIter s) s = .next e ∧ e.mpc = .read ∧ e.ctx = .main ∧
      e.prev = switchState s.cfg s.gpin ∧ e.sw = switchState s.cfg s.gpin ∧
      e.tcmp = (if switchState s.cfg s.gpin = true then
                  (if s.prev = true then s.tcmp else BitVec.ofNat 8 s.cfg.pwmCenter)
                else scale s.cfg s.sample)

/-! ### Interrupts -/

/-- 60_exceptions.md R352: the interrupt context is entry, capture and return; while it lasts no main-context word has a
step and exactly one interrupt word has; the other agents go on as in the main context. -/
def Obligations.InterruptContextRunsItsThreeSteps : Prop :=
  (∀ (s : State), s.ctx = .isr →
    (∀ i : Instr, i.isMain = true → exec i s = .fault .noStep) ∧ exec .isEnter s = .fault .noStep ∧
    (s.ipc = .capture → (∃ s', exec .isCapture s = .next s') ∧ exec .isReturn s = .fault .noStep) ∧
    (s.ipc = .ret → (∃ s', exec .isReturn s = .next s') ∧ exec .isCapture s = .fault .noStep) ∧
    (∀ i : Instr, i.isMain = false → i ≠ .isEnter → i ≠ .isCapture → i ≠ .isReturn →
      ((∃ s', exec i s = .next s') ↔ ∃ s', exec i { s with ctx := .main } = .next s'))) ∧
  (∀ (s : State), s.fault = none → s.refused = none → s.ctx = .main → s.gie = true → s.aie = true → s.aif = true →
    s.alar = true →
    runTrace [.isEnter, .isCapture, .isReturn] s = .next { s with aif := false, ipc := .ret, sample := s.aresh })

/-- 60_exceptions.md R354: no nesting: in a reachable handler state `gie` is 0 and entry has no step; a conversion then
raises a request that entry can take right after the return; two conversions leave one request. -/
def Obligations.InterruptsDoNotNest : Prop :=
  ∀ (s : State), Reachable s → s.ctx = .isr →
    s.gie = false ∧ exec .isEnter s = .fault .noStep ∧
    (∀ v x : Byte, s.ipc = .capture →
      ∃ e, runTrace [.adDone v, .adDone x, .isCapture, .isReturn] s = .next e ∧ e.aif = true ∧ e.sample = x ∧
        ∃ f, exec .isEnter e = .next f ∧ f.aif = false)

/-- 43_adc_sample_capture.md R242: after ML.SEI nothing but a reset or the handler itself closes the way in: entry has a
step exactly when a request is pending in the main context. -/
def Obligations.HandlerCannotBeDisabled : Prop :=
  ∀ (s : State), Reachable s → 14 ≤ s.mpc.code →
    ((∃ s', exec .isEnter s = .next s') ↔ s.aif = true ∧ s.ctx = .main) ∧
    (∀ (i : Instr) (s' : State), i.isReset = false → Steps s i s' →
      s'.aie = true ∧ s'.aen = true ∧ (s.gie = true → s'.gie = false → i = .isEnter))

/-! ### Boot and liveness -/

/-- 70_reset_and_hazards.md R407, 95_test_vectors.md BOOTED: from every launch state the sixteen words of the boot order
have their steps and lead to the loop's first READ with every register set up. -/
def Obligations.BootReachesTheLoop : Prop :=
  ∀ (s : State), IsLaunch s →
    runTrace boot s =
      .next { s with mpc := .read, gie := true, rcf := 0, wdtEn := false, clkdiv := s.cfg.clkDivCfg
                     tmode := 1, tcom := 1, tcs := 1, toc := true, ttop := s.cfg.pwmTop
                     tcmp := BitVec.ofNat 8 s.cfg.pwmCenter, tcmpa := BitVec.ofNat 8 s.cfg.pwmCenter
                     aref := s.cfg.adcRef, ach := s.cfg.adcCh, alar := true, aps := s.cfg.adcPs
                     aen := true, arun := true, aate := true, aie := true
                     gdir := BitVec.ofNat 8 (2 ^ s.cfg.pwmPin), gpue := BitVec.ofNat 8 (2 ^ s.cfg.swPin)
                     prev := false }

/-- 43_adc_sample_capture.md R244: in a fair run without a reset, every conversion completed after ML.SEI is followed by a
capture that stores its value or a newer one. -/
def Obligations.EveryConversionIsCapturedOrSuperseded : Prop :=
  ∀ (st : Nat → State) (w : Nat → Instr), FairRun st w → Reachable (st 0) → (∀ n, (w n).isReset = false) →
    ∀ (n : Nat) (v : Byte), 14 ≤ (st n).mpc.code → w n = .adDone v →
      ∃ j m, n ≤ j ∧ j < m ∧ w m = .isCapture ∧ w j = .adDone (st (m + 1)).sample

/-- 45_control_loop.md R321: in a fair run without a reset, after ML.SEI the loop reads the switch infinitely often, and
a switch that stays put is read as it stands from some point on. -/
def Obligations.LoopRunsForeverAndReadsASettledSwitch : Prop :=
  ∀ (st : Nat → State) (w : Nat → Instr), FairRun st w → Reachable (st 0) → (∀ n, (w n).isReset = false) →
    (∃ n, 14 ≤ (st n).mpc.code) →
    (∀ n, ∃ m, n ≤ m ∧ w m = .mlRead) ∧
    (∀ (k : Contact), (∃ n, ∀ m, n ≤ m → (st m).swc = k) →
      ∃ n, ∀ m, n ≤ m → w m = .mlRead → (st (m + 1)).sw = decide (k = .openContact))
end

