-- ==== Sys2Proof/Laws/State.lean ====
section
/-! SUPPORT. One lemma per field per named update of the state, each true by rfl: a later proof never unfolds a record
update. -/

namespace Sys2Proof.Machine

/-! ### setGie -/

@[simp] theorem State.setGie_cfg (s : State) (b : Bool) : (s.setGie b).cfg = s.cfg := rfl
@[simp] theorem State.setGie_trace (s : State) (b : Bool) : (s.setGie b).trace = s.trace := rfl
@[simp] theorem State.setGie_draws (s : State) (b : Bool) : (s.setGie b).draws = s.draws := rfl
@[simp] theorem State.setGie_mpc (s : State) (b : Bool) : (s.setGie b).mpc = s.mpc := rfl
@[simp] theorem State.setGie_ctx (s : State) (b : Bool) : (s.setGie b).ctx = s.ctx := rfl
@[simp] theorem State.setGie_ipc (s : State) (b : Bool) : (s.setGie b).ipc = s.ipc := rfl
@[simp] theorem State.setGie_gie (s : State) (b : Bool) : (s.setGie b).gie = b := rfl
@[simp] theorem State.setGie_sw (s : State) (b : Bool) : (s.setGie b).sw = s.sw := rfl
@[simp] theorem State.setGie_t (s : State) (b : Bool) : (s.setGie b).t = s.t := rfl
@[simp] theorem State.setGie_rcf (s : State) (b : Bool) : (s.setGie b).rcf = s.rcf := rfl
@[simp] theorem State.setGie_wdtEn (s : State) (b : Bool) : (s.setGie b).wdtEn = s.wdtEn := rfl
@[simp] theorem State.setGie_wdtTo (s : State) (b : Bool) : (s.setGie b).wdtTo = s.wdtTo := rfl
@[simp] theorem State.setGie_clkdiv (s : State) (b : Bool) : (s.setGie b).clkdiv = s.clkdiv := rfl
@[simp] theorem State.setGie_tmode (s : State) (b : Bool) : (s.setGie b).tmode = s.tmode := rfl
@[simp] theorem State.setGie_tcom (s : State) (b : Bool) : (s.setGie b).tcom = s.tcom := rfl
@[simp] theorem State.setGie_tcs (s : State) (b : Bool) : (s.setGie b).tcs = s.tcs := rfl
@[simp] theorem State.setGie_tie (s : State) (b : Bool) : (s.setGie b).tie = s.tie := rfl
@[simp] theorem State.setGie_tcnt (s : State) (b : Bool) : (s.setGie b).tcnt = s.tcnt := rfl
@[simp] theorem State.setGie_ttop (s : State) (b : Bool) : (s.setGie b).ttop = s.ttop := rfl
@[simp] theorem State.setGie_tcmp (s : State) (b : Bool) : (s.setGie b).tcmp = s.tcmp := rfl
@[simp] theorem State.setGie_tcmpa (s : State) (b : Bool) : (s.setGie b).tcmpa = s.tcmpa := rfl
@[simp] theorem State.setGie_toc (s : State) (b : Bool) : (s.setGie b).toc = s.toc := rfl
@[simp] theorem State.setGie_aref (s : State) (b : Bool) : (s.setGie b).aref = s.aref := rfl
@[simp] theorem State.setGie_ach (s : State) (b : Bool) : (s.setGie b).ach = s.ach := rfl
@[simp] theorem State.setGie_alar (s : State) (b : Bool) : (s.setGie b).alar = s.alar := rfl
@[simp] theorem State.setGie_aen (s : State) (b : Bool) : (s.setGie b).aen = s.aen := rfl
@[simp] theorem State.setGie_arun (s : State) (b : Bool) : (s.setGie b).arun = s.arun := rfl
@[simp] theorem State.setGie_aate (s : State) (b : Bool) : (s.setGie b).aate = s.aate := rfl
@[simp] theorem State.setGie_aif (s : State) (b : Bool) : (s.setGie b).aif = s.aif := rfl
@[simp] theorem State.setGie_aie (s : State) (b : Bool) : (s.setGie b).aie = s.aie := rfl
@[simp] theorem State.setGie_aps (s : State) (b : Bool) : (s.setGie b).aps = s.aps := rfl
@[simp] theorem State.setGie_aresh (s : State) (b : Bool) : (s.setGie b).aresh = s.aresh := rfl
@[simp] theorem State.setGie_gdir (s : State) (b : Bool) : (s.setGie b).gdir = s.gdir := rfl
@[simp] theorem State.setGie_gout (s : State) (b : Bool) : (s.setGie b).gout = s.gout := rfl
@[simp] theorem State.setGie_gpue (s : State) (b : Bool) : (s.setGie b).gpue = s.gpue := rfl
@[simp] theorem State.setGie_gpin (s : State) (b : Bool) : (s.setGie b).gpin = s.gpin := rfl
@[simp] theorem State.setGie_sample (s : State) (b : Bool) : (s.setGie b).sample = s.sample := rfl
@[simp] theorem State.setGie_prev (s : State) (b : Bool) : (s.setGie b).prev = s.prev := rfl
@[simp] theorem State.setGie_swc (s : State) (b : Bool) : (s.setGie b).swc = s.swc := rfl
@[simp] theorem State.setGie_fault (s : State) (b : Bool) : (s.setGie b).fault = s.fault := rfl
@[simp] theorem State.setGie_refused (s : State) (b : Bool) : (s.setGie b).refused = s.refused := rfl

/-! ### setAif -/

@[simp] theorem State.setAif_cfg (s : State) (b : Bool) : (s.setAif b).cfg = s.cfg := rfl
@[simp] theorem State.setAif_trace (s : State) (b : Bool) : (s.setAif b).trace = s.trace := rfl
@[simp] theorem State.setAif_draws (s : State) (b : Bool) : (s.setAif b).draws = s.draws := rfl
@[simp] theorem State.setAif_mpc (s : State) (b : Bool) : (s.setAif b).mpc = s.mpc := rfl
@[simp] theorem State.setAif_ctx (s : State) (b : Bool) : (s.setAif b).ctx = s.ctx := rfl
@[simp] theorem State.setAif_ipc (s : State) (b : Bool) : (s.setAif b).ipc = s.ipc := rfl
@[simp] theorem State.setAif_gie (s : State) (b : Bool) : (s.setAif b).gie = s.gie := rfl
@[simp] theorem State.setAif_sw (s : State) (b : Bool) : (s.setAif b).sw = s.sw := rfl
@[simp] theorem State.setAif_t (s : State) (b : Bool) : (s.setAif b).t = s.t := rfl
@[simp] theorem State.setAif_rcf (s : State) (b : Bool) : (s.setAif b).rcf = s.rcf := rfl
@[simp] theorem State.setAif_wdtEn (s : State) (b : Bool) : (s.setAif b).wdtEn = s.wdtEn := rfl
@[simp] theorem State.setAif_wdtTo (s : State) (b : Bool) : (s.setAif b).wdtTo = s.wdtTo := rfl
@[simp] theorem State.setAif_clkdiv (s : State) (b : Bool) : (s.setAif b).clkdiv = s.clkdiv := rfl
@[simp] theorem State.setAif_tmode (s : State) (b : Bool) : (s.setAif b).tmode = s.tmode := rfl
@[simp] theorem State.setAif_tcom (s : State) (b : Bool) : (s.setAif b).tcom = s.tcom := rfl
@[simp] theorem State.setAif_tcs (s : State) (b : Bool) : (s.setAif b).tcs = s.tcs := rfl
@[simp] theorem State.setAif_tie (s : State) (b : Bool) : (s.setAif b).tie = s.tie := rfl
@[simp] theorem State.setAif_tcnt (s : State) (b : Bool) : (s.setAif b).tcnt = s.tcnt := rfl
@[simp] theorem State.setAif_ttop (s : State) (b : Bool) : (s.setAif b).ttop = s.ttop := rfl
@[simp] theorem State.setAif_tcmp (s : State) (b : Bool) : (s.setAif b).tcmp = s.tcmp := rfl
@[simp] theorem State.setAif_tcmpa (s : State) (b : Bool) : (s.setAif b).tcmpa = s.tcmpa := rfl
@[simp] theorem State.setAif_toc (s : State) (b : Bool) : (s.setAif b).toc = s.toc := rfl
@[simp] theorem State.setAif_aref (s : State) (b : Bool) : (s.setAif b).aref = s.aref := rfl
@[simp] theorem State.setAif_ach (s : State) (b : Bool) : (s.setAif b).ach = s.ach := rfl
@[simp] theorem State.setAif_alar (s : State) (b : Bool) : (s.setAif b).alar = s.alar := rfl
@[simp] theorem State.setAif_aen (s : State) (b : Bool) : (s.setAif b).aen = s.aen := rfl
@[simp] theorem State.setAif_arun (s : State) (b : Bool) : (s.setAif b).arun = s.arun := rfl
@[simp] theorem State.setAif_aate (s : State) (b : Bool) : (s.setAif b).aate = s.aate := rfl
@[simp] theorem State.setAif_aif (s : State) (b : Bool) : (s.setAif b).aif = b := rfl
@[simp] theorem State.setAif_aie (s : State) (b : Bool) : (s.setAif b).aie = s.aie := rfl
@[simp] theorem State.setAif_aps (s : State) (b : Bool) : (s.setAif b).aps = s.aps := rfl
@[simp] theorem State.setAif_aresh (s : State) (b : Bool) : (s.setAif b).aresh = s.aresh := rfl
@[simp] theorem State.setAif_gdir (s : State) (b : Bool) : (s.setAif b).gdir = s.gdir := rfl
@[simp] theorem State.setAif_gout (s : State) (b : Bool) : (s.setAif b).gout = s.gout := rfl
@[simp] theorem State.setAif_gpue (s : State) (b : Bool) : (s.setAif b).gpue = s.gpue := rfl
@[simp] theorem State.setAif_gpin (s : State) (b : Bool) : (s.setAif b).gpin = s.gpin := rfl
@[simp] theorem State.setAif_sample (s : State) (b : Bool) : (s.setAif b).sample = s.sample := rfl
@[simp] theorem State.setAif_prev (s : State) (b : Bool) : (s.setAif b).prev = s.prev := rfl
@[simp] theorem State.setAif_swc (s : State) (b : Bool) : (s.setAif b).swc = s.swc := rfl
@[simp] theorem State.setAif_fault (s : State) (b : Bool) : (s.setAif b).fault = s.fault := rfl
@[simp] theorem State.setAif_refused (s : State) (b : Bool) : (s.setAif b).refused = s.refused := rfl

/-! ### setRcf -/

@[simp] theorem State.setRcf_cfg (s : State) (v : BitVec 3) : (s.setRcf v).cfg = s.cfg := rfl
@[simp] theorem State.setRcf_trace (s : State) (v : BitVec 3) : (s.setRcf v).trace = s.trace := rfl
@[simp] theorem State.setRcf_draws (s : State) (v : BitVec 3) : (s.setRcf v).draws = s.draws := rfl
@[simp] theorem State.setRcf_mpc (s : State) (v : BitVec 3) : (s.setRcf v).mpc = s.mpc := rfl
@[simp] theorem State.setRcf_ctx (s : State) (v : BitVec 3) : (s.setRcf v).ctx = s.ctx := rfl
@[simp] theorem State.setRcf_ipc (s : State) (v : BitVec 3) : (s.setRcf v).ipc = s.ipc := rfl
@[simp] theorem State.setRcf_gie (s : State) (v : BitVec 3) : (s.setRcf v).gie = s.gie := rfl
@[simp] theorem State.setRcf_sw (s : State) (v : BitVec 3) : (s.setRcf v).sw = s.sw := rfl
@[simp] theorem State.setRcf_t (s : State) (v : BitVec 3) : (s.setRcf v).t = s.t := rfl
@[simp] theorem State.setRcf_rcf (s : State) (v : BitVec 3) : (s.setRcf v).rcf = v := rfl
@[simp] theorem State.setRcf_wdtEn (s : State) (v : BitVec 3) : (s.setRcf v).wdtEn = s.wdtEn := rfl
@[simp] theorem State.setRcf_wdtTo (s : State) (v : BitVec 3) : (s.setRcf v).wdtTo = s.wdtTo := rfl
@[simp] theorem State.setRcf_clkdiv (s : State) (v : BitVec 3) : (s.setRcf v).clkdiv = s.clkdiv := rfl
@[simp] theorem State.setRcf_tmode (s : State) (v : BitVec 3) : (s.setRcf v).tmode = s.tmode := rfl
@[simp] theorem State.setRcf_tcom (s : State) (v : BitVec 3) : (s.setRcf v).tcom = s.tcom := rfl
@[simp] theorem State.setRcf_tcs (s : State) (v : BitVec 3) : (s.setRcf v).tcs = s.tcs := rfl
@[simp] theorem State.setRcf_tie (s : State) (v : BitVec 3) : (s.setRcf v).tie = s.tie := rfl
@[simp] theorem State.setRcf_tcnt (s : State) (v : BitVec 3) : (s.setRcf v).tcnt = s.tcnt := rfl
@[simp] theorem State.setRcf_ttop (s : State) (v : BitVec 3) : (s.setRcf v).ttop = s.ttop := rfl
@[simp] theorem State.setRcf_tcmp (s : State) (v : BitVec 3) : (s.setRcf v).tcmp = s.tcmp := rfl
@[simp] theorem State.setRcf_tcmpa (s : State) (v : BitVec 3) : (s.setRcf v).tcmpa = s.tcmpa := rfl
@[simp] theorem State.setRcf_toc (s : State) (v : BitVec 3) : (s.setRcf v).toc = s.toc := rfl
@[simp] theorem State.setRcf_aref (s : State) (v : BitVec 3) : (s.setRcf v).aref = s.aref := rfl
@[simp] theorem State.setRcf_ach (s : State) (v : BitVec 3) : (s.setRcf v).ach = s.ach := rfl
@[simp] theorem State.setRcf_alar (s : State) (v : BitVec 3) : (s.setRcf v).alar = s.alar := rfl
@[simp] theorem State.setRcf_aen (s : State) (v : BitVec 3) : (s.setRcf v).aen = s.aen := rfl
@[simp] theorem State.setRcf_arun (s : State) (v : BitVec 3) : (s.setRcf v).arun = s.arun := rfl
@[simp] theorem State.setRcf_aate (s : State) (v : BitVec 3) : (s.setRcf v).aate = s.aate := rfl
@[simp] theorem State.setRcf_aif (s : State) (v : BitVec 3) : (s.setRcf v).aif = s.aif := rfl
@[simp] theorem State.setRcf_aie (s : State) (v : BitVec 3) : (s.setRcf v).aie = s.aie := rfl
@[simp] theorem State.setRcf_aps (s : State) (v : BitVec 3) : (s.setRcf v).aps = s.aps := rfl
@[simp] theorem State.setRcf_aresh (s : State) (v : BitVec 3) : (s.setRcf v).aresh = s.aresh := rfl
@[simp] theorem State.setRcf_gdir (s : State) (v : BitVec 3) : (s.setRcf v).gdir = s.gdir := rfl
@[simp] theorem State.setRcf_gout (s : State) (v : BitVec 3) : (s.setRcf v).gout = s.gout := rfl
@[simp] theorem State.setRcf_gpue (s : State) (v : BitVec 3) : (s.setRcf v).gpue = s.gpue := rfl
@[simp] theorem State.setRcf_gpin (s : State) (v : BitVec 3) : (s.setRcf v).gpin = s.gpin := rfl
@[simp] theorem State.setRcf_sample (s : State) (v : BitVec 3) : (s.setRcf v).sample = s.sample := rfl
@[simp] theorem State.setRcf_prev (s : State) (v : BitVec 3) : (s.setRcf v).prev = s.prev := rfl
@[simp] theorem State.setRcf_swc (s : State) (v : BitVec 3) : (s.setRcf v).swc = s.swc := rfl
@[simp] theorem State.setRcf_fault (s : State) (v : BitVec 3) : (s.setRcf v).fault = s.fault := rfl
@[simp] theorem State.setRcf_refused (s : State) (v : BitVec 3) : (s.setRcf v).refused = s.refused := rfl

/-! ### raise -/

@[simp] theorem State.raise_cfg (s : State) (r : FaultReason) : (s.raise r).cfg = s.cfg := rfl
@[simp] theorem State.raise_trace (s : State) (r : FaultReason) : (s.raise r).trace = s.trace := rfl
@[simp] theorem State.raise_draws (s : State) (r : FaultReason) : (s.raise r).draws = s.draws := rfl
@[simp] theorem State.raise_mpc (s : State) (r : FaultReason) : (s.raise r).mpc = s.mpc := rfl
@[simp] theorem State.raise_ctx (s : State) (r : FaultReason) : (s.raise r).ctx = s.ctx := rfl
@[simp] theorem State.raise_ipc (s : State) (r : FaultReason) : (s.raise r).ipc = s.ipc := rfl
@[simp] theorem State.raise_gie (s : State) (r : FaultReason) : (s.raise r).gie = s.gie := rfl
@[simp] theorem State.raise_sw (s : State) (r : FaultReason) : (s.raise r).sw = s.sw := rfl
@[simp] theorem State.raise_t (s : State) (r : FaultReason) : (s.raise r).t = s.t := rfl
@[simp] theorem State.raise_rcf (s : State) (r : FaultReason) : (s.raise r).rcf = s.rcf := rfl
@[simp] theorem State.raise_wdtEn (s : State) (r : FaultReason) : (s.raise r).wdtEn = s.wdtEn := rfl
@[simp] theorem State.raise_wdtTo (s : State) (r : FaultReason) : (s.raise r).wdtTo = s.wdtTo := rfl
@[simp] theorem State.raise_clkdiv (s : State) (r : FaultReason) : (s.raise r).clkdiv = s.clkdiv := rfl
@[simp] theorem State.raise_tmode (s : State) (r : FaultReason) : (s.raise r).tmode = s.tmode := rfl
@[simp] theorem State.raise_tcom (s : State) (r : FaultReason) : (s.raise r).tcom = s.tcom := rfl
@[simp] theorem State.raise_tcs (s : State) (r : FaultReason) : (s.raise r).tcs = s.tcs := rfl
@[simp] theorem State.raise_tie (s : State) (r : FaultReason) : (s.raise r).tie = s.tie := rfl
@[simp] theorem State.raise_tcnt (s : State) (r : FaultReason) : (s.raise r).tcnt = s.tcnt := rfl
@[simp] theorem State.raise_ttop (s : State) (r : FaultReason) : (s.raise r).ttop = s.ttop := rfl
@[simp] theorem State.raise_tcmp (s : State) (r : FaultReason) : (s.raise r).tcmp = s.tcmp := rfl
@[simp] theorem State.raise_tcmpa (s : State) (r : FaultReason) : (s.raise r).tcmpa = s.tcmpa := rfl
@[simp] theorem State.raise_toc (s : State) (r : FaultReason) : (s.raise r).toc = s.toc := rfl
@[simp] theorem State.raise_aref (s : State) (r : FaultReason) : (s.raise r).aref = s.aref := rfl
@[simp] theorem State.raise_ach (s : State) (r : FaultReason) : (s.raise r).ach = s.ach := rfl
@[simp] theorem State.raise_alar (s : State) (r : FaultReason) : (s.raise r).alar = s.alar := rfl
@[simp] theorem State.raise_aen (s : State) (r : FaultReason) : (s.raise r).aen = s.aen := rfl
@[simp] theorem State.raise_arun (s : State) (r : FaultReason) : (s.raise r).arun = s.arun := rfl
@[simp] theorem State.raise_aate (s : State) (r : FaultReason) : (s.raise r).aate = s.aate := rfl
@[simp] theorem State.raise_aif (s : State) (r : FaultReason) : (s.raise r).aif = s.aif := rfl
@[simp] theorem State.raise_aie (s : State) (r : FaultReason) : (s.raise r).aie = s.aie := rfl
@[simp] theorem State.raise_aps (s : State) (r : FaultReason) : (s.raise r).aps = s.aps := rfl
@[simp] theorem State.raise_aresh (s : State) (r : FaultReason) : (s.raise r).aresh = s.aresh := rfl
@[simp] theorem State.raise_gdir (s : State) (r : FaultReason) : (s.raise r).gdir = s.gdir := rfl
@[simp] theorem State.raise_gout (s : State) (r : FaultReason) : (s.raise r).gout = s.gout := rfl
@[simp] theorem State.raise_gpue (s : State) (r : FaultReason) : (s.raise r).gpue = s.gpue := rfl
@[simp] theorem State.raise_gpin (s : State) (r : FaultReason) : (s.raise r).gpin = s.gpin := rfl
@[simp] theorem State.raise_sample (s : State) (r : FaultReason) : (s.raise r).sample = s.sample := rfl
@[simp] theorem State.raise_prev (s : State) (r : FaultReason) : (s.raise r).prev = s.prev := rfl
@[simp] theorem State.raise_swc (s : State) (r : FaultReason) : (s.raise r).swc = s.swc := rfl
@[simp] theorem State.raise_fault (s : State) (r : FaultReason) : (s.raise r).fault = some r := rfl
@[simp] theorem State.raise_refused (s : State) (r : FaultReason) : (s.raise r).refused = s.refused := rfl

/-! ### refuse -/

@[simp] theorem State.refuse_cfg (s : State) (r : RefusalReason) : (s.refuse r).cfg = s.cfg := rfl
@[simp] theorem State.refuse_trace (s : State) (r : RefusalReason) : (s.refuse r).trace = s.trace := rfl
@[simp] theorem State.refuse_draws (s : State) (r : RefusalReason) : (s.refuse r).draws = s.draws := rfl
@[simp] theorem State.refuse_mpc (s : State) (r : RefusalReason) : (s.refuse r).mpc = s.mpc := rfl
@[simp] theorem State.refuse_ctx (s : State) (r : RefusalReason) : (s.refuse r).ctx = s.ctx := rfl
@[simp] theorem State.refuse_ipc (s : State) (r : RefusalReason) : (s.refuse r).ipc = s.ipc := rfl
@[simp] theorem State.refuse_gie (s : State) (r : RefusalReason) : (s.refuse r).gie = s.gie := rfl
@[simp] theorem State.refuse_sw (s : State) (r : RefusalReason) : (s.refuse r).sw = s.sw := rfl
@[simp] theorem State.refuse_t (s : State) (r : RefusalReason) : (s.refuse r).t = s.t := rfl
@[simp] theorem State.refuse_rcf (s : State) (r : RefusalReason) : (s.refuse r).rcf = s.rcf := rfl
@[simp] theorem State.refuse_wdtEn (s : State) (r : RefusalReason) : (s.refuse r).wdtEn = s.wdtEn := rfl
@[simp] theorem State.refuse_wdtTo (s : State) (r : RefusalReason) : (s.refuse r).wdtTo = s.wdtTo := rfl
@[simp] theorem State.refuse_clkdiv (s : State) (r : RefusalReason) : (s.refuse r).clkdiv = s.clkdiv := rfl
@[simp] theorem State.refuse_tmode (s : State) (r : RefusalReason) : (s.refuse r).tmode = s.tmode := rfl
@[simp] theorem State.refuse_tcom (s : State) (r : RefusalReason) : (s.refuse r).tcom = s.tcom := rfl
@[simp] theorem State.refuse_tcs (s : State) (r : RefusalReason) : (s.refuse r).tcs = s.tcs := rfl
@[simp] theorem State.refuse_tie (s : State) (r : RefusalReason) : (s.refuse r).tie = s.tie := rfl
@[simp] theorem State.refuse_tcnt (s : State) (r : RefusalReason) : (s.refuse r).tcnt = s.tcnt := rfl
@[simp] theorem State.refuse_ttop (s : State) (r : RefusalReason) : (s.refuse r).ttop = s.ttop := rfl
@[simp] theorem State.refuse_tcmp (s : State) (r : RefusalReason) : (s.refuse r).tcmp = s.tcmp := rfl
@[simp] theorem State.refuse_tcmpa (s : State) (r : RefusalReason) : (s.refuse r).tcmpa = s.tcmpa := rfl
@[simp] theorem State.refuse_toc (s : State) (r : RefusalReason) : (s.refuse r).toc = s.toc := rfl
@[simp] theorem State.refuse_aref (s : State) (r : RefusalReason) : (s.refuse r).aref = s.aref := rfl
@[simp] theorem State.refuse_ach (s : State) (r : RefusalReason) : (s.refuse r).ach = s.ach := rfl
@[simp] theorem State.refuse_alar (s : State) (r : RefusalReason) : (s.refuse r).alar = s.alar := rfl
@[simp] theorem State.refuse_aen (s : State) (r : RefusalReason) : (s.refuse r).aen = s.aen := rfl
@[simp] theorem State.refuse_arun (s : State) (r : RefusalReason) : (s.refuse r).arun = s.arun := rfl
@[simp] theorem State.refuse_aate (s : State) (r : RefusalReason) : (s.refuse r).aate = s.aate := rfl
@[simp] theorem State.refuse_aif (s : State) (r : RefusalReason) : (s.refuse r).aif = s.aif := rfl
@[simp] theorem State.refuse_aie (s : State) (r : RefusalReason) : (s.refuse r).aie = s.aie := rfl
@[simp] theorem State.refuse_aps (s : State) (r : RefusalReason) : (s.refuse r).aps = s.aps := rfl
@[simp] theorem State.refuse_aresh (s : State) (r : RefusalReason) : (s.refuse r).aresh = s.aresh := rfl
@[simp] theorem State.refuse_gdir (s : State) (r : RefusalReason) : (s.refuse r).gdir = s.gdir := rfl
@[simp] theorem State.refuse_gout (s : State) (r : RefusalReason) : (s.refuse r).gout = s.gout := rfl
@[simp] theorem State.refuse_gpue (s : State) (r : RefusalReason) : (s.refuse r).gpue = s.gpue := rfl
@[simp] theorem State.refuse_gpin (s : State) (r : RefusalReason) : (s.refuse r).gpin = s.gpin := rfl
@[simp] theorem State.refuse_sample (s : State) (r : RefusalReason) : (s.refuse r).sample = s.sample := rfl
@[simp] theorem State.refuse_prev (s : State) (r : RefusalReason) : (s.refuse r).prev = s.prev := rfl
@[simp] theorem State.refuse_swc (s : State) (r : RefusalReason) : (s.refuse r).swc = s.swc := rfl
@[simp] theorem State.refuse_fault (s : State) (r : RefusalReason) : (s.refuse r).fault = s.fault := rfl
@[simp] theorem State.refuse_refused (s : State) (r : RefusalReason) : (s.refuse r).refused = some r := rfl

/-! ### goto -/

@[simp] theorem State.goto_cfg (s : State) (p : Phase) : (s.goto p).cfg = s.cfg := rfl
@[simp] theorem State.goto_trace (s : State) (p : Phase) : (s.goto p).trace = s.trace := rfl
@[simp] theorem State.goto_draws (s : State) (p : Phase) : (s.goto p).draws = s.draws := rfl
@[simp] theorem State.goto_mpc (s : State) (p : Phase) : (s.goto p).mpc = p := rfl
@[simp] theorem State.goto_ctx (s : State) (p : Phase) : (s.goto p).ctx = s.ctx := rfl
@[simp] theorem State.goto_ipc (s : State) (p : Phase) : (s.goto p).ipc = s.ipc := rfl
@[simp] theorem State.goto_gie (s : State) (p : Phase) : (s.goto p).gie = s.gie := rfl
@[simp] theorem State.goto_sw (s : State) (p : Phase) : (s.goto p).sw = s.sw := rfl
@[simp] theorem State.goto_t (s : State) (p : Phase) : (s.goto p).t = s.t := rfl
@[simp] theorem State.goto_rcf (s : State) (p : Phase) : (s.goto p).rcf = s.rcf := rfl
@[simp] theorem State.goto_wdtEn (s : State) (p : Phase) : (s.goto p).wdtEn = s.wdtEn := rfl
@[simp] theorem State.goto_wdtTo (s : State) (p : Phase) : (s.goto p).wdtTo = s.wdtTo := rfl
@[simp] theorem State.goto_clkdiv (s : State) (p : Phase) : (s.goto p).clkdiv = s.clkdiv := rfl
@[simp] theorem State.goto_tmode (s : State) (p : Phase) : (s.goto p).tmode = s.tmode := rfl
@[simp] theorem State.goto_tcom (s : State) (p : Phase) : (s.goto p).tcom = s.tcom := rfl
@[simp] theorem State.goto_tcs (s : State) (p : Phase) : (s.goto p).tcs = s.tcs := rfl
@[simp] theorem State.goto_tie (s : State) (p : Phase) : (s.goto p).tie = s.tie := rfl
@[simp] theorem State.goto_tcnt (s : State) (p : Phase) : (s.goto p).tcnt = s.tcnt := rfl
@[simp] theorem State.goto_ttop (s : State) (p : Phase) : (s.goto p).ttop = s.ttop := rfl
@[simp] theorem State.goto_tcmp (s : State) (p : Phase) : (s.goto p).tcmp = s.tcmp := rfl
@[simp] theorem State.goto_tcmpa (s : State) (p : Phase) : (s.goto p).tcmpa = s.tcmpa := rfl
@[simp] theorem State.goto_toc (s : State) (p : Phase) : (s.goto p).toc = s.toc := rfl
@[simp] theorem State.goto_aref (s : State) (p : Phase) : (s.goto p).aref = s.aref := rfl
@[simp] theorem State.goto_ach (s : State) (p : Phase) : (s.goto p).ach = s.ach := rfl
@[simp] theorem State.goto_alar (s : State) (p : Phase) : (s.goto p).alar = s.alar := rfl
@[simp] theorem State.goto_aen (s : State) (p : Phase) : (s.goto p).aen = s.aen := rfl
@[simp] theorem State.goto_arun (s : State) (p : Phase) : (s.goto p).arun = s.arun := rfl
@[simp] theorem State.goto_aate (s : State) (p : Phase) : (s.goto p).aate = s.aate := rfl
@[simp] theorem State.goto_aif (s : State) (p : Phase) : (s.goto p).aif = s.aif := rfl
@[simp] theorem State.goto_aie (s : State) (p : Phase) : (s.goto p).aie = s.aie := rfl
@[simp] theorem State.goto_aps (s : State) (p : Phase) : (s.goto p).aps = s.aps := rfl
@[simp] theorem State.goto_aresh (s : State) (p : Phase) : (s.goto p).aresh = s.aresh := rfl
@[simp] theorem State.goto_gdir (s : State) (p : Phase) : (s.goto p).gdir = s.gdir := rfl
@[simp] theorem State.goto_gout (s : State) (p : Phase) : (s.goto p).gout = s.gout := rfl
@[simp] theorem State.goto_gpue (s : State) (p : Phase) : (s.goto p).gpue = s.gpue := rfl
@[simp] theorem State.goto_gpin (s : State) (p : Phase) : (s.goto p).gpin = s.gpin := rfl
@[simp] theorem State.goto_sample (s : State) (p : Phase) : (s.goto p).sample = s.sample := rfl
@[simp] theorem State.goto_prev (s : State) (p : Phase) : (s.goto p).prev = s.prev := rfl
@[simp] theorem State.goto_swc (s : State) (p : Phase) : (s.goto p).swc = s.swc := rfl
@[simp] theorem State.goto_fault (s : State) (p : Phase) : (s.goto p).fault = s.fault := rfl
@[simp] theorem State.goto_refused (s : State) (p : Phase) : (s.goto p).refused = s.refused := rfl

/-! ### writeSample -/

@[simp] theorem State.writeSample_cfg (s : State) (v : Byte) : (s.writeSample v).cfg = s.cfg := rfl
@[simp] theorem State.writeSample_trace (s : State) (v : Byte) : (s.writeSample v).trace = s.trace := rfl
@[simp] theorem State.writeSample_draws (s : State) (v : Byte) : (s.writeSample v).draws = s.draws := rfl
@[simp] theorem State.writeSample_mpc (s : State) (v : Byte) : (s.writeSample v).mpc = s.mpc := rfl
@[simp] theorem State.writeSample_ctx (s : State) (v : Byte) : (s.writeSample v).ctx = s.ctx := rfl
@[simp] theorem State.writeSample_ipc (s : State) (v : Byte) : (s.writeSample v).ipc = s.ipc := rfl
@[simp] theorem State.writeSample_gie (s : State) (v : Byte) : (s.writeSample v).gie = s.gie := rfl
@[simp] theorem State.writeSample_sw (s : State) (v : Byte) : (s.writeSample v).sw = s.sw := rfl
@[simp] theorem State.writeSample_t (s : State) (v : Byte) : (s.writeSample v).t = s.t := rfl
@[simp] theorem State.writeSample_rcf (s : State) (v : Byte) : (s.writeSample v).rcf = s.rcf := rfl
@[simp] theorem State.writeSample_wdtEn (s : State) (v : Byte) : (s.writeSample v).wdtEn = s.wdtEn := rfl
@[simp] theorem State.writeSample_wdtTo (s : State) (v : Byte) : (s.writeSample v).wdtTo = s.wdtTo := rfl
@[simp] theorem State.writeSample_clkdiv (s : State) (v : Byte) : (s.writeSample v).clkdiv = s.clkdiv := rfl
@[simp] theorem State.writeSample_tmode (s : State) (v : Byte) : (s.writeSample v).tmode = s.tmode := rfl
@[simp] theorem State.writeSample_tcom (s : State) (v : Byte) : (s.writeSample v).tcom = s.tcom := rfl
@[simp] theorem State.writeSample_tcs (s : State) (v : Byte) : (s.writeSample v).tcs = s.tcs := rfl
@[simp] theorem State.writeSample_tie (s : State) (v : Byte) : (s.writeSample v).tie = s.tie := rfl
@[simp] theorem State.writeSample_tcnt (s : State) (v : Byte) : (s.writeSample v).tcnt = s.tcnt := rfl
@[simp] theorem State.writeSample_ttop (s : State) (v : Byte) : (s.writeSample v).ttop = s.ttop := rfl
@[simp] theorem State.writeSample_tcmp (s : State) (v : Byte) : (s.writeSample v).tcmp = s.tcmp := rfl
@[simp] theorem State.writeSample_tcmpa (s : State) (v : Byte) : (s.writeSample v).tcmpa = s.tcmpa := rfl
@[simp] theorem State.writeSample_toc (s : State) (v : Byte) : (s.writeSample v).toc = s.toc := rfl
@[simp] theorem State.writeSample_aref (s : State) (v : Byte) : (s.writeSample v).aref = s.aref := rfl
@[simp] theorem State.writeSample_ach (s : State) (v : Byte) : (s.writeSample v).ach = s.ach := rfl
@[simp] theorem State.writeSample_alar (s : State) (v : Byte) : (s.writeSample v).alar = s.alar := rfl
@[simp] theorem State.writeSample_aen (s : State) (v : Byte) : (s.writeSample v).aen = s.aen := rfl
@[simp] theorem State.writeSample_arun (s : State) (v : Byte) : (s.writeSample v).arun = s.arun := rfl
@[simp] theorem State.writeSample_aate (s : State) (v : Byte) : (s.writeSample v).aate = s.aate := rfl
@[simp] theorem State.writeSample_aif (s : State) (v : Byte) : (s.writeSample v).aif = s.aif := rfl
@[simp] theorem State.writeSample_aie (s : State) (v : Byte) : (s.writeSample v).aie = s.aie := rfl
@[simp] theorem State.writeSample_aps (s : State) (v : Byte) : (s.writeSample v).aps = s.aps := rfl
@[simp] theorem State.writeSample_aresh (s : State) (v : Byte) : (s.writeSample v).aresh = s.aresh := rfl
@[simp] theorem State.writeSample_gdir (s : State) (v : Byte) : (s.writeSample v).gdir = s.gdir := rfl
@[simp] theorem State.writeSample_gout (s : State) (v : Byte) : (s.writeSample v).gout = s.gout := rfl
@[simp] theorem State.writeSample_gpue (s : State) (v : Byte) : (s.writeSample v).gpue = s.gpue := rfl
@[simp] theorem State.writeSample_gpin (s : State) (v : Byte) : (s.writeSample v).gpin = s.gpin := rfl
@[simp] theorem State.writeSample_sample (s : State) (v : Byte) : (s.writeSample v).sample = v := rfl
@[simp] theorem State.writeSample_prev (s : State) (v : Byte) : (s.writeSample v).prev = s.prev := rfl
@[simp] theorem State.writeSample_swc (s : State) (v : Byte) : (s.writeSample v).swc = s.swc := rfl
@[simp] theorem State.writeSample_fault (s : State) (v : Byte) : (s.writeSample v).fault = s.fault := rfl
@[simp] theorem State.writeSample_refused (s : State) (v : Byte) : (s.writeSample v).refused = s.refused := rfl

/-! ### writePrev -/

@[simp] theorem State.writePrev_cfg (s : State) (b : Bool) : (s.writePrev b).cfg = s.cfg := rfl
@[simp] theorem State.writePrev_trace (s : State) (b : Bool) : (s.writePrev b).trace = s.trace := rfl
@[simp] theorem State.writePrev_draws (s : State) (b : Bool) : (s.writePrev b).draws = s.draws := rfl
@[simp] theorem State.writePrev_mpc (s : State) (b : Bool) : (s.writePrev b).mpc = s.mpc := rfl
@[simp] theorem State.writePrev_ctx (s : State) (b : Bool) : (s.writePrev b).ctx = s.ctx := rfl
@[simp] theorem State.writePrev_ipc (s : State) (b : Bool) : (s.writePrev b).ipc = s.ipc := rfl
@[simp] theorem State.writePrev_gie (s : State) (b : Bool) : (s.writePrev b).gie = s.gie := rfl
@[simp] theorem State.writePrev_sw (s : State) (b : Bool) : (s.writePrev b).sw = s.sw := rfl
@[simp] theorem State.writePrev_t (s : State) (b : Bool) : (s.writePrev b).t = s.t := rfl
@[simp] theorem State.writePrev_rcf (s : State) (b : Bool) : (s.writePrev b).rcf = s.rcf := rfl
@[simp] theorem State.writePrev_wdtEn (s : State) (b : Bool) : (s.writePrev b).wdtEn = s.wdtEn := rfl
@[simp] theorem State.writePrev_wdtTo (s : State) (b : Bool) : (s.writePrev b).wdtTo = s.wdtTo := rfl
@[simp] theorem State.writePrev_clkdiv (s : State) (b : Bool) : (s.writePrev b).clkdiv = s.clkdiv := rfl
@[simp] theorem State.writePrev_tmode (s : State) (b : Bool) : (s.writePrev b).tmode = s.tmode := rfl
@[simp] theorem State.writePrev_tcom (s : State) (b : Bool) : (s.writePrev b).tcom = s.tcom := rfl
@[simp] theorem State.writePrev_tcs (s : State) (b : Bool) : (s.writePrev b).tcs = s.tcs := rfl
@[simp] theorem State.writePrev_tie (s : State) (b : Bool) : (s.writePrev b).tie = s.tie := rfl
@[simp] theorem State.writePrev_tcnt (s : State) (b : Bool) : (s.writePrev b).tcnt = s.tcnt := rfl
@[simp] theorem State.writePrev_ttop (s : State) (b : Bool) : (s.writePrev b).ttop = s.ttop := rfl
@[simp] theorem State.writePrev_tcmp (s : State) (b : Bool) : (s.writePrev b).tcmp = s.tcmp := rfl
@[simp] theorem State.writePrev_tcmpa (s : State) (b : Bool) : (s.writePrev b).tcmpa = s.tcmpa := rfl
@[simp] theorem State.writePrev_toc (s : State) (b : Bool) : (s.writePrev b).toc = s.toc := rfl
@[simp] theorem State.writePrev_aref (s : State) (b : Bool) : (s.writePrev b).aref = s.aref := rfl
@[simp] theorem State.writePrev_ach (s : State) (b : Bool) : (s.writePrev b).ach = s.ach := rfl
@[simp] theorem State.writePrev_alar (s : State) (b : Bool) : (s.writePrev b).alar = s.alar := rfl
@[simp] theorem State.writePrev_aen (s : State) (b : Bool) : (s.writePrev b).aen = s.aen := rfl
@[simp] theorem State.writePrev_arun (s : State) (b : Bool) : (s.writePrev b).arun = s.arun := rfl
@[simp] theorem State.writePrev_aate (s : State) (b : Bool) : (s.writePrev b).aate = s.aate := rfl
@[simp] theorem State.writePrev_aif (s : State) (b : Bool) : (s.writePrev b).aif = s.aif := rfl
@[simp] theorem State.writePrev_aie (s : State) (b : Bool) : (s.writePrev b).aie = s.aie := rfl
@[simp] theorem State.writePrev_aps (s : State) (b : Bool) : (s.writePrev b).aps = s.aps := rfl
@[simp] theorem State.writePrev_aresh (s : State) (b : Bool) : (s.writePrev b).aresh = s.aresh := rfl
@[simp] theorem State.writePrev_gdir (s : State) (b : Bool) : (s.writePrev b).gdir = s.gdir := rfl
@[simp] theorem State.writePrev_gout (s : State) (b : Bool) : (s.writePrev b).gout = s.gout := rfl
@[simp] theorem State.writePrev_gpue (s : State) (b : Bool) : (s.writePrev b).gpue = s.gpue := rfl
@[simp] theorem State.writePrev_gpin (s : State) (b : Bool) : (s.writePrev b).gpin = s.gpin := rfl
@[simp] theorem State.writePrev_sample (s : State) (b : Bool) : (s.writePrev b).sample = s.sample := rfl
@[simp] theorem State.writePrev_prev (s : State) (b : Bool) : (s.writePrev b).prev = b := rfl
@[simp] theorem State.writePrev_swc (s : State) (b : Bool) : (s.writePrev b).swc = s.swc := rfl
@[simp] theorem State.writePrev_fault (s : State) (b : Bool) : (s.writePrev b).fault = s.fault := rfl
@[simp] theorem State.writePrev_refused (s : State) (b : Bool) : (s.writePrev b).refused = s.refused := rfl

/-! ### writeCmp -/

@[simp] theorem State.writeCmp_cfg (s : State) (v : Byte) : (s.writeCmp v).cfg = s.cfg := rfl
@[simp] theorem State.writeCmp_trace (s : State) (v : Byte) : (s.writeCmp v).trace = s.trace := rfl
@[simp] theorem State.writeCmp_draws (s : State) (v : Byte) : (s.writeCmp v).draws = s.draws := rfl
@[simp] theorem State.writeCmp_mpc (s : State) (v : Byte) : (s.writeCmp v).mpc = s.mpc := rfl
@[simp] theorem State.writeCmp_ctx (s : State) (v : Byte) : (s.writeCmp v).ctx = s.ctx := rfl
@[simp] theorem State.writeCmp_ipc (s : State) (v : Byte) : (s.writeCmp v).ipc = s.ipc := rfl
@[simp] theorem State.writeCmp_gie (s : State) (v : Byte) : (s.writeCmp v).gie = s.gie := rfl
@[simp] theorem State.writeCmp_sw (s : State) (v : Byte) : (s.writeCmp v).sw = s.sw := rfl
@[simp] theorem State.writeCmp_t (s : State) (v : Byte) : (s.writeCmp v).t = s.t := rfl
@[simp] theorem State.writeCmp_rcf (s : State) (v : Byte) : (s.writeCmp v).rcf = s.rcf := rfl
@[simp] theorem State.writeCmp_wdtEn (s : State) (v : Byte) : (s.writeCmp v).wdtEn = s.wdtEn := rfl
@[simp] theorem State.writeCmp_wdtTo (s : State) (v : Byte) : (s.writeCmp v).wdtTo = s.wdtTo := rfl
@[simp] theorem State.writeCmp_clkdiv (s : State) (v : Byte) : (s.writeCmp v).clkdiv = s.clkdiv := rfl
@[simp] theorem State.writeCmp_tmode (s : State) (v : Byte) : (s.writeCmp v).tmode = s.tmode := rfl
@[simp] theorem State.writeCmp_tcom (s : State) (v : Byte) : (s.writeCmp v).tcom = s.tcom := rfl
@[simp] theorem State.writeCmp_tcs (s : State) (v : Byte) : (s.writeCmp v).tcs = s.tcs := rfl
@[simp] theorem State.writeCmp_tie (s : State) (v : Byte) : (s.writeCmp v).tie = s.tie := rfl
@[simp] theorem State.writeCmp_tcnt (s : State) (v : Byte) : (s.writeCmp v).tcnt = s.tcnt := rfl
@[simp] theorem State.writeCmp_ttop (s : State) (v : Byte) : (s.writeCmp v).ttop = s.ttop := rfl
@[simp] theorem State.writeCmp_tcmp (s : State) (v : Byte) : (s.writeCmp v).tcmp = v := rfl
@[simp] theorem State.writeCmp_tcmpa (s : State) (v : Byte) : (s.writeCmp v).tcmpa = if s.cmpHeld then s.tcmpa else v := rfl
@[simp] theorem State.writeCmp_toc (s : State) (v : Byte) : (s.writeCmp v).toc = s.toc := rfl
@[simp] theorem State.writeCmp_aref (s : State) (v : Byte) : (s.writeCmp v).aref = s.aref := rfl
@[simp] theorem State.writeCmp_ach (s : State) (v : Byte) : (s.writeCmp v).ach = s.ach := rfl
@[simp] theorem State.writeCmp_alar (s : State) (v : Byte) : (s.writeCmp v).alar = s.alar := rfl
@[simp] theorem State.writeCmp_aen (s : State) (v : Byte) : (s.writeCmp v).aen = s.aen := rfl
@[simp] theorem State.writeCmp_arun (s : State) (v : Byte) : (s.writeCmp v).arun = s.arun := rfl
@[simp] theorem State.writeCmp_aate (s : State) (v : Byte) : (s.writeCmp v).aate = s.aate := rfl
@[simp] theorem State.writeCmp_aif (s : State) (v : Byte) : (s.writeCmp v).aif = s.aif := rfl
@[simp] theorem State.writeCmp_aie (s : State) (v : Byte) : (s.writeCmp v).aie = s.aie := rfl
@[simp] theorem State.writeCmp_aps (s : State) (v : Byte) : (s.writeCmp v).aps = s.aps := rfl
@[simp] theorem State.writeCmp_aresh (s : State) (v : Byte) : (s.writeCmp v).aresh = s.aresh := rfl
@[simp] theorem State.writeCmp_gdir (s : State) (v : Byte) : (s.writeCmp v).gdir = s.gdir := rfl
@[simp] theorem State.writeCmp_gout (s : State) (v : Byte) : (s.writeCmp v).gout = s.gout := rfl
@[simp] theorem State.writeCmp_gpue (s : State) (v : Byte) : (s.writeCmp v).gpue = s.gpue := rfl
@[simp] theorem State.writeCmp_gpin (s : State) (v : Byte) : (s.writeCmp v).gpin = s.gpin := rfl
@[simp] theorem State.writeCmp_sample (s : State) (v : Byte) : (s.writeCmp v).sample = s.sample := rfl
@[simp] theorem State.writeCmp_prev (s : State) (v : Byte) : (s.writeCmp v).prev = s.prev := rfl
@[simp] theorem State.writeCmp_swc (s : State) (v : Byte) : (s.writeCmp v).swc = s.swc := rfl
@[simp] theorem State.writeCmp_fault (s : State) (v : Byte) : (s.writeCmp v).fault = s.fault := rfl
@[simp] theorem State.writeCmp_refused (s : State) (v : Byte) : (s.writeCmp v).refused = s.refused := rfl

/-! ### tick -/

@[simp] theorem State.tick_cfg (s : State) : (s.tick).cfg = s.cfg := rfl
@[simp] theorem State.tick_trace (s : State) : (s.tick).trace = s.trace := rfl
@[simp] theorem State.tick_draws (s : State) : (s.tick).draws = s.draws := rfl
@[simp] theorem State.tick_mpc (s : State) : (s.tick).mpc = s.mpc := rfl
@[simp] theorem State.tick_ctx (s : State) : (s.tick).ctx = s.ctx := rfl
@[simp] theorem State.tick_ipc (s : State) : (s.tick).ipc = s.ipc := rfl
@[simp] theorem State.tick_gie (s : State) : (s.tick).gie = s.gie := rfl
@[simp] theorem State.tick_sw (s : State) : (s.tick).sw = s.sw := rfl
@[simp] theorem State.tick_t (s : State) : (s.tick).t = s.t := rfl
@[simp] theorem State.tick_rcf (s : State) : (s.tick).rcf = s.rcf := rfl
@[simp] theorem State.tick_wdtEn (s : State) : (s.tick).wdtEn = s.wdtEn := rfl
@[simp] theorem State.tick_wdtTo (s : State) : (s.tick).wdtTo = s.wdtTo := rfl
@[simp] theorem State.tick_clkdiv (s : State) : (s.tick).clkdiv = s.clkdiv := rfl
@[simp] theorem State.tick_tmode (s : State) : (s.tick).tmode = s.tmode := rfl
@[simp] theorem State.tick_tcom (s : State) : (s.tick).tcom = s.tcom := rfl
@[simp] theorem State.tick_tcs (s : State) : (s.tick).tcs = s.tcs := rfl
@[simp] theorem State.tick_tie (s : State) : (s.tick).tie = s.tie := rfl
@[simp] theorem State.tick_tcnt (s : State) : (s.tick).tcnt = nextCount s := rfl
@[simp] theorem State.tick_ttop (s : State) : (s.tick).ttop = s.ttop := rfl
@[simp] theorem State.tick_tcmp (s : State) : (s.tick).tcmp = s.tcmp := rfl
@[simp] theorem State.tick_tcmpa (s : State) : (s.tick).tcmpa = if nextCount s = 0 ∧ s.cfg.cmpBuffered = true then s.tcmp else s.tcmpa := rfl
@[simp] theorem State.tick_toc (s : State) : (s.tick).toc = if nextCount s = 0 then true else if s.tcnt = s.tcmpa.toNat then false else s.toc := rfl
@[simp] theorem State.tick_aref (s : State) : (s.tick).aref = s.aref := rfl
@[simp] theorem State.tick_ach (s : State) : (s.tick).ach = s.ach := rfl
@[simp] theorem State.tick_alar (s : State) : (s.tick).alar = s.alar := rfl
@[simp] theorem State.tick_aen (s : State) : (s.tick).aen = s.aen := rfl
@[simp] theorem State.tick_arun (s : State) : (s.tick).arun = s.arun := rfl
@[simp] theorem State.tick_aate (s : State) : (s.tick).aate = s.aate := rfl
@[simp] theorem State.tick_aif (s : State) : (s.tick).aif = s.aif := rfl
@[simp] theorem State.tick_aie (s : State) : (s.tick).aie = s.aie := rfl
@[simp] theorem State.tick_aps (s : State) : (s.tick).aps = s.aps := rfl
@[simp] theorem State.tick_aresh (s : State) : (s.tick).aresh = s.aresh := rfl
@[simp] theorem State.tick_gdir (s : State) : (s.tick).gdir = s.gdir := rfl
@[simp] theorem State.tick_gout (s : State) : (s.tick).gout = s.gout := rfl
@[simp] theorem State.tick_gpue (s : State) : (s.tick).gpue = s.gpue := rfl
@[simp] theorem State.tick_gpin (s : State) : (s.tick).gpin = s.gpin := rfl
@[simp] theorem State.tick_sample (s : State) : (s.tick).sample = s.sample := rfl
@[simp] theorem State.tick_prev (s : State) : (s.tick).prev = s.prev := rfl
@[simp] theorem State.tick_swc (s : State) : (s.tick).swc = s.swc := rfl
@[simp] theorem State.tick_fault (s : State) : (s.tick).fault = s.fault := rfl
@[simp] theorem State.tick_refused (s : State) : (s.tick).refused = s.refused := rfl

/-! ### enterInterrupt -/

@[simp] theorem State.enterInterrupt_cfg (s : State) : (s.enterInterrupt).cfg = s.cfg := rfl
@[simp] theorem State.enterInterrupt_trace (s : State) : (s.enterInterrupt).trace = s.trace := rfl
@[simp] theorem State.enterInterrupt_draws (s : State) : (s.enterInterrupt).draws = s.draws := rfl
@[simp] theorem State.enterInterrupt_mpc (s : State) : (s.enterInterrupt).mpc = s.mpc := rfl
@[simp] theorem State.enterInterrupt_ctx (s : State) : (s.enterInterrupt).ctx = .isr := rfl
@[simp] theorem State.enterInterrupt_ipc (s : State) : (s.enterInterrupt).ipc = .capture := rfl
@[simp] theorem State.enterInterrupt_gie (s : State) : (s.enterInterrupt).gie = false := rfl
@[simp] theorem State.enterInterrupt_sw (s : State) : (s.enterInterrupt).sw = s.sw := rfl
@[simp] theorem State.enterInterrupt_t (s : State) : (s.enterInterrupt).t = s.t := rfl
@[simp] theorem State.enterInterrupt_rcf (s : State) : (s.enterInterrupt).rcf = s.rcf := rfl
@[simp] theorem State.enterInterrupt_wdtEn (s : State) : (s.enterInterrupt).wdtEn = s.wdtEn := rfl
@[simp] theorem State.enterInterrupt_wdtTo (s : State) : (s.enterInterrupt).wdtTo = s.wdtTo := rfl
@[simp] theorem State.enterInterrupt_clkdiv (s : State) : (s.enterInterrupt).clkdiv = s.clkdiv := rfl
@[simp] theorem State.enterInterrupt_tmode (s : State) : (s.enterInterrupt).tmode = s.tmode := rfl
@[simp] theorem State.enterInterrupt_tcom (s : State) : (s.enterInterrupt).tcom = s.tcom := rfl
@[simp] theorem State.enterInterrupt_tcs (s : State) : (s.enterInterrupt).tcs = s.tcs := rfl
@[simp] theorem State.enterInterrupt_tie (s : State) : (s.enterInterrupt).tie = s.tie := rfl
@[simp] theorem State.enterInterrupt_tcnt (s : State) : (s.enterInterrupt).tcnt = s.tcnt := rfl
@[simp] theorem State.enterInterrupt_ttop (s : State) : (s.enterInterrupt).ttop = s.ttop := rfl
@[simp] theorem State.enterInterrupt_tcmp (s : State) : (s.enterInterrupt).tcmp = s.tcmp := rfl
@[simp] theorem State.enterInterrupt_tcmpa (s : State) : (s.enterInterrupt).tcmpa = s.tcmpa := rfl
@[simp] theorem State.enterInterrupt_toc (s : State) : (s.enterInterrupt).toc = s.toc := rfl
@[simp] theorem State.enterInterrupt_aref (s : State) : (s.enterInterrupt).aref = s.aref := rfl
@[simp] theorem State.enterInterrupt_ach (s : State) : (s.enterInterrupt).ach = s.ach := rfl
@[simp] theorem State.enterInterrupt_alar (s : State) : (s.enterInterrupt).alar = s.alar := rfl
@[simp] theorem State.enterInterrupt_aen (s : State) : (s.enterInterrupt).aen = s.aen := rfl
@[simp] theorem State.enterInterrupt_arun (s : State) : (s.enterInterrupt).arun = s.arun := rfl
@[simp] theorem State.enterInterrupt_aate (s : State) : (s.enterInterrupt).aate = s.aate := rfl
@[simp] theorem State.enterInterrupt_aif (s : State) : (s.enterInterrupt).aif = false := rfl
@[simp] theorem State.enterInterrupt_aie (s : State) : (s.enterInterrupt).aie = s.aie := rfl
@[simp] theorem State.enterInterrupt_aps (s : State) : (s.enterInterrupt).aps = s.aps := rfl
@[simp] theorem State.enterInterrupt_aresh (s : State) : (s.enterInterrupt).aresh = s.aresh := rfl
@[simp] theorem State.enterInterrupt_gdir (s : State) : (s.enterInterrupt).gdir = s.gdir := rfl
@[simp] theorem State.enterInterrupt_gout (s : State) : (s.enterInterrupt).gout = s.gout := rfl
@[simp] theorem State.enterInterrupt_gpue (s : State) : (s.enterInterrupt).gpue = s.gpue := rfl
@[simp] theorem State.enterInterrupt_gpin (s : State) : (s.enterInterrupt).gpin = s.gpin := rfl
@[simp] theorem State.enterInterrupt_sample (s : State) : (s.enterInterrupt).sample = s.sample := rfl
@[simp] theorem State.enterInterrupt_prev (s : State) : (s.enterInterrupt).prev = s.prev := rfl
@[simp] theorem State.enterInterrupt_swc (s : State) : (s.enterInterrupt).swc = s.swc := rfl
@[simp] theorem State.enterInterrupt_fault (s : State) : (s.enterInterrupt).fault = s.fault := rfl
@[simp] theorem State.enterInterrupt_refused (s : State) : (s.enterInterrupt).refused = s.refused := rfl

/-! ### returnFromInterrupt -/

@[simp] theorem State.returnFromInterrupt_cfg (s : State) : (s.returnFromInterrupt).cfg = s.cfg := rfl
@[simp] theorem State.returnFromInterrupt_trace (s : State) : (s.returnFromInterrupt).trace = s.trace := rfl
@[simp] theorem State.returnFromInterrupt_draws (s : State) : (s.returnFromInterrupt).draws = s.draws := rfl
@[simp] theorem State.returnFromInterrupt_mpc (s : State) : (s.returnFromInterrupt).mpc = s.mpc := rfl
@[simp] theorem State.returnFromInterrupt_ctx (s : State) : (s.returnFromInterrupt).ctx = .main := rfl
@[simp] theorem State.returnFromInterrupt_ipc (s : State) : (s.returnFromInterrupt).ipc = s.ipc := rfl
@[simp] theorem State.returnFromInterrupt_gie (s : State) : (s.returnFromInterrupt).gie = true := rfl
@[simp] theorem State.returnFromInterrupt_sw (s : State) : (s.returnFromInterrupt).sw = s.sw := rfl
@[simp] theorem State.returnFromInterrupt_t (s : State) : (s.returnFromInterrupt).t = s.t := rfl
@[simp] theorem State.returnFromInterrupt_rcf (s : State) : (s.returnFromInterrupt).rcf = s.rcf := rfl
@[simp] theorem State.returnFromInterrupt_wdtEn (s : State) : (s.returnFromInterrupt).wdtEn = s.wdtEn := rfl
@[simp] theorem State.returnFromInterrupt_wdtTo (s : State) : (s.returnFromInterrupt).wdtTo = s.wdtTo := rfl
@[simp] theorem State.returnFromInterrupt_clkdiv (s : State) : (s.returnFromInterrupt).clkdiv = s.clkdiv := rfl
@[simp] theorem State.returnFromInterrupt_tmode (s : State) : (s.returnFromInterrupt).tmode = s.tmode := rfl
@[simp] theorem State.returnFromInterrupt_tcom (s : State) : (s.returnFromInterrupt).tcom = s.tcom := rfl
@[simp] theorem State.returnFromInterrupt_tcs (s : State) : (s.returnFromInterrupt).tcs = s.tcs := rfl
@[simp] theorem State.returnFromInterrupt_tie (s : State) : (s.returnFromInterrupt).tie = s.tie := rfl
@[simp] theorem State.returnFromInterrupt_tcnt (s : State) : (s.returnFromInterrupt).tcnt = s.tcnt := rfl
@[simp] theorem State.returnFromInterrupt_ttop (s : State) : (s.returnFromInterrupt).ttop = s.ttop := rfl
@[simp] theorem State.returnFromInterrupt_tcmp (s : State) : (s.returnFromInterrupt).tcmp = s.tcmp := rfl
@[simp] theorem State.returnFromInterrupt_tcmpa (s : State) : (s.returnFromInterrupt).tcmpa = s.tcmpa := rfl
@[simp] theorem State.returnFromInterrupt_toc (s : State) : (s.returnFromInterrupt).toc = s.toc := rfl
@[simp] theorem State.returnFromInterrupt_aref (s : State) : (s.returnFromInterrupt).aref = s.aref := rfl
@[simp] theorem State.returnFromInterrupt_ach (s : State) : (s.returnFromInterrupt).ach = s.ach := rfl
@[simp] theorem State.returnFromInterrupt_alar (s : State) : (s.returnFromInterrupt).alar = s.alar := rfl
@[simp] theorem State.returnFromInterrupt_aen (s : State) : (s.returnFromInterrupt).aen = s.aen := rfl
@[simp] theorem State.returnFromInterrupt_arun (s : State) : (s.returnFromInterrupt).arun = s.arun := rfl
@[simp] theorem State.returnFromInterrupt_aate (s : State) : (s.returnFromInterrupt).aate = s.aate := rfl
@[simp] theorem State.returnFromInterrupt_aif (s : State) : (s.returnFromInterrupt).aif = s.aif := rfl
@[simp] theorem State.returnFromInterrupt_aie (s : State) : (s.returnFromInterrupt).aie = s.aie := rfl
@[simp] theorem State.returnFromInterrupt_aps (s : State) : (s.returnFromInterrupt).aps = s.aps := rfl
@[simp] theorem State.returnFromInterrupt_aresh (s : State) : (s.returnFromInterrupt).aresh = s.aresh := rfl
@[simp] theorem State.returnFromInterrupt_gdir (s : State) : (s.returnFromInterrupt).gdir = s.gdir := rfl
@[simp] theorem State.returnFromInterrupt_gout (s : State) : (s.returnFromInterrupt).gout = s.gout := rfl
@[simp] theorem State.returnFromInterrupt_gpue (s : State) : (s.returnFromInterrupt).gpue = s.gpue := rfl
@[simp] theorem State.returnFromInterrupt_gpin (s : State) : (s.returnFromInterrupt).gpin = s.gpin := rfl
@[simp] theorem State.returnFromInterrupt_sample (s : State) : (s.returnFromInterrupt).sample = s.sample := rfl
@[simp] theorem State.returnFromInterrupt_prev (s : State) : (s.returnFromInterrupt).prev = s.prev := rfl
@[simp] theorem State.returnFromInterrupt_swc (s : State) : (s.returnFromInterrupt).swc = s.swc := rfl
@[simp] theorem State.returnFromInterrupt_fault (s : State) : (s.returnFromInterrupt).fault = s.fault := rfl
@[simp] theorem State.returnFromInterrupt_refused (s : State) : (s.returnFromInterrupt).refused = s.refused := rfl

/-! ### resetState -/

@[simp] theorem State.resetState_cfg (s : State) (v : Byte) : (s.resetState v).cfg = s.cfg := rfl
@[simp] theorem State.resetState_trace (s : State) (v : Byte) : (s.resetState v).trace = s.trace := rfl
@[simp] theorem State.resetState_draws (s : State) (v : Byte) : (s.resetState v).draws = s.draws + 1 := rfl
@[simp] theorem State.resetState_mpc (s : State) (v : Byte) : (s.resetState v).mpc = .suCli := rfl
@[simp] theorem State.resetState_ctx (s : State) (v : Byte) : (s.resetState v).ctx = .main := rfl
@[simp] theorem State.resetState_ipc (s : State) (v : Byte) : (s.resetState v).ipc = .capture := rfl
@[simp] theorem State.resetState_gie (s : State) (v : Byte) : (s.resetState v).gie = false := rfl
@[simp] theorem State.resetState_sw (s : State) (v : Byte) : (s.resetState v).sw = Config.freeSw s.draws := rfl
@[simp] theorem State.resetState_t (s : State) (v : Byte) : (s.resetState v).t = Config.freeT s.draws := rfl
@[simp] theorem State.resetState_rcf (s : State) (v : Byte) : (s.resetState v).rcf = s.rcf := rfl
@[simp] theorem State.resetState_wdtEn (s : State) (v : Byte) : (s.resetState v).wdtEn = s.wdtEn := rfl
@[simp] theorem State.resetState_wdtTo (s : State) (v : Byte) : (s.resetState v).wdtTo = s.wdtTo := rfl
@[simp] theorem State.resetState_clkdiv (s : State) (v : Byte) : (s.resetState v).clkdiv = s.cfg.clkDivReset := rfl
@[simp] theorem State.resetState_tmode (s : State) (v : Byte) : (s.resetState v).tmode = 0 := rfl
@[simp] theorem State.resetState_tcom (s : State) (v : Byte) : (s.resetState v).tcom = 0 := rfl
@[simp] theorem State.resetState_tcs (s : State) (v : Byte) : (s.resetState v).tcs = 0 := rfl
@[simp] theorem State.resetState_tie (s : State) (v : Byte) : (s.resetState v).tie = 0 := rfl
@[simp] theorem State.resetState_tcnt (s : State) (v : Byte) : (s.resetState v).tcnt = 0 := rfl
@[simp] theorem State.resetState_ttop (s : State) (v : Byte) : (s.resetState v).ttop = 0 := rfl
@[simp] theorem State.resetState_tcmp (s : State) (v : Byte) : (s.resetState v).tcmp = 0 := rfl
@[simp] theorem State.resetState_tcmpa (s : State) (v : Byte) : (s.resetState v).tcmpa = 0 := rfl
@[simp] theorem State.resetState_toc (s : State) (v : Byte) : (s.resetState v).toc = false := rfl
@[simp] theorem State.resetState_aref (s : State) (v : Byte) : (s.resetState v).aref = 0 := rfl
@[simp] theorem State.resetState_ach (s : State) (v : Byte) : (s.resetState v).ach = 0 := rfl
@[simp] theorem State.resetState_alar (s : State) (v : Byte) : (s.resetState v).alar = false := rfl
@[simp] theorem State.resetState_aen (s : State) (v : Byte) : (s.resetState v).aen = false := rfl
@[simp] theorem State.resetState_arun (s : State) (v : Byte) : (s.resetState v).arun = false := rfl
@[simp] theorem State.resetState_aate (s : State) (v : Byte) : (s.resetState v).aate = false := rfl
@[simp] theorem State.resetState_aif (s : State) (v : Byte) : (s.resetState v).aif = false := rfl
@[simp] theorem State.resetState_aie (s : State) (v : Byte) : (s.resetState v).aie = false := rfl
@[simp] theorem State.resetState_aps (s : State) (v : Byte) : (s.resetState v).aps = 0 := rfl
@[simp] theorem State.resetState_aresh (s : State) (v : Byte) : (s.resetState v).aresh = 0 := rfl
@[simp] theorem State.resetState_gdir (s : State) (v : Byte) : (s.resetState v).gdir = 0 := rfl
@[simp] theorem State.resetState_gout (s : State) (v : Byte) : (s.resetState v).gout = 0 := rfl
@[simp] theorem State.resetState_gpue (s : State) (v : Byte) : (s.resetState v).gpue = 0 := rfl
@[simp] theorem State.resetState_gpin (s : State) (v : Byte) : (s.resetState v).gpin = 0 := rfl
@[simp] theorem State.resetState_sample (s : State) (v : Byte) : (s.resetState v).sample = v := rfl
@[simp] theorem State.resetState_prev (s : State) (v : Byte) : (s.resetState v).prev = Config.freePrev s.draws := rfl
@[simp] theorem State.resetState_swc (s : State) (v : Byte) : (s.resetState v).swc = s.swc := rfl
@[simp] theorem State.resetState_fault (s : State) (v : Byte) : (s.resetState v).fault = s.fault := rfl
@[simp] theorem State.resetState_refused (s : State) (v : Byte) : (s.resetState v).refused = s.refused := rfl

/-! ### setWatchdog -/

@[simp] theorem State.setWatchdog_cfg (s : State) (en : Bool) (timeout : BitVec 3) : (s.setWatchdog en timeout).cfg = s.cfg := rfl
@[simp] theorem State.setWatchdog_trace (s : State) (en : Bool) (timeout : BitVec 3) : (s.setWatchdog en timeout).trace = s.trace := rfl
@[simp] theorem State.setWatchdog_draws (s : State) (en : Bool) (timeout : BitVec 3) : (s.setWatchdog en timeout).draws = s.draws := rfl
@[simp] theorem State.setWatchdog_mpc (s : State) (en : Bool) (timeout : BitVec 3) : (s.setWatchdog en timeout).mpc = s.mpc := rfl
@[simp] theorem State.setWatchdog_ctx (s : State) (en : Bool) (timeout : BitVec 3) : (s.setWatchdog en timeout).ctx = s.ctx := rfl
@[simp] theorem State.setWatchdog_ipc (s : State) (en : Bool) (timeout : BitVec 3) : (s.setWatchdog en timeout).ipc = s.ipc := rfl
@[simp] theorem State.setWatchdog_gie (s : State) (en : Bool) (timeout : BitVec 3) : (s.setWatchdog en timeout).gie = s.gie := rfl
@[simp] theorem State.setWatchdog_sw (s : State) (en : Bool) (timeout : BitVec 3) : (s.setWatchdog en timeout).sw = s.sw := rfl
@[simp] theorem State.setWatchdog_t (s : State) (en : Bool) (timeout : BitVec 3) : (s.setWatchdog en timeout).t = s.t := rfl
@[simp] theorem State.setWatchdog_rcf (s : State) (en : Bool) (timeout : BitVec 3) : (s.setWatchdog en timeout).rcf = s.rcf := rfl
@[simp] theorem State.setWatchdog_wdtEn (s : State) (en : Bool) (timeout : BitVec 3) : (s.setWatchdog en timeout).wdtEn = en := rfl
@[simp] theorem State.setWatchdog_wdtTo (s : State) (en : Bool) (timeout : BitVec 3) : (s.setWatchdog en timeout).wdtTo = timeout := rfl
@[simp] theorem State.setWatchdog_clkdiv (s : State) (en : Bool) (timeout : BitVec 3) : (s.setWatchdog en timeout).clkdiv = s.clkdiv := rfl
@[simp] theorem State.setWatchdog_tmode (s : State) (en : Bool) (timeout : BitVec 3) : (s.setWatchdog en timeout).tmode = s.tmode := rfl
@[simp] theorem State.setWatchdog_tcom (s : State) (en : Bool) (timeout : BitVec 3) : (s.setWatchdog en timeout).tcom = s.tcom := rfl
@[simp] theorem State.setWatchdog_tcs (s : State) (en : Bool) (timeout : BitVec 3) : (s.setWatchdog en timeout).tcs = s.tcs := rfl
@[simp] theorem State.setWatchdog_tie (s : State) (en : Bool) (timeout : BitVec 3) : (s.setWatchdog en timeout).tie = s.tie := rfl
@[simp] theorem State.setWatchdog_tcnt (s : State) (en : Bool) (timeout : BitVec 3) : (s.setWatchdog en timeout).tcnt = s.tcnt := rfl
@[simp] theorem State.setWatchdog_ttop (s : State) (en : Bool) (timeout : BitVec 3) : (s.setWatchdog en timeout).ttop = s.ttop := rfl
@[simp] theorem State.setWatchdog_tcmp (s : State) (en : Bool) (timeout : BitVec 3) : (s.setWatchdog en timeout).tcmp = s.tcmp := rfl
@[simp] theorem State.setWatchdog_tcmpa (s : State) (en : Bool) (timeout : BitVec 3) : (s.setWatchdog en timeout).tcmpa = s.tcmpa := rfl
@[simp] theorem State.setWatchdog_toc (s : State) (en : Bool) (timeout : BitVec 3) : (s.setWatchdog en timeout).toc = s.toc := rfl
@[simp] theorem State.setWatchdog_aref (s : State) (en : Bool) (timeout : BitVec 3) : (s.setWatchdog en timeout).aref = s.aref := rfl
@[simp] theorem State.setWatchdog_ach (s : State) (en : Bool) (timeout : BitVec 3) : (s.setWatchdog en timeout).ach = s.ach := rfl
@[simp] theorem State.setWatchdog_alar (s : State) (en : Bool) (timeout : BitVec 3) : (s.setWatchdog en timeout).alar = s.alar := rfl
@[simp] theorem State.setWatchdog_aen (s : State) (en : Bool) (timeout : BitVec 3) : (s.setWatchdog en timeout).aen = s.aen := rfl
@[simp] theorem State.setWatchdog_arun (s : State) (en : Bool) (timeout : BitVec 3) : (s.setWatchdog en timeout).arun = s.arun := rfl
@[simp] theorem State.setWatchdog_aate (s : State) (en : Bool) (timeout : BitVec 3) : (s.setWatchdog en timeout).aate = s.aate := rfl
@[simp] theorem State.setWatchdog_aif (s : State) (en : Bool) (timeout : BitVec 3) : (s.setWatchdog en timeout).aif = s.aif := rfl
@[simp] theorem State.setWatchdog_aie (s : State) (en : Bool) (timeout : BitVec 3) : (s.setWatchdog en timeout).aie = s.aie := rfl
@[simp] theorem State.setWatchdog_aps (s : State) (en : Bool) (timeout : BitVec 3) : (s.setWatchdog en timeout).aps = s.aps := rfl
@[simp] theorem State.setWatchdog_aresh (s : State) (en : Bool) (timeout : BitVec 3) : (s.setWatchdog en timeout).aresh = s.aresh := rfl
@[simp] theorem State.setWatchdog_gdir (s : State) (en : Bool) (timeout : BitVec 3) : (s.setWatchdog en timeout).gdir = s.gdir := rfl
@[simp] theorem State.setWatchdog_gout (s : State) (en : Bool) (timeout : BitVec 3) : (s.setWatchdog en timeout).gout = s.gout := rfl
@[simp] theorem State.setWatchdog_gpue (s : State) (en : Bool) (timeout : BitVec 3) : (s.setWatchdog en timeout).gpue = s.gpue := rfl
@[simp] theorem State.setWatchdog_gpin (s : State) (en : Bool) (timeout : BitVec 3) : (s.setWatchdog en timeout).gpin = s.gpin := rfl
@[simp] theorem State.setWatchdog_sample (s : State) (en : Bool) (timeout : BitVec 3) : (s.setWatchdog en timeout).sample = s.sample := rfl
@[simp] theorem State.setWatchdog_prev (s : State) (en : Bool) (timeout : BitVec 3) : (s.setWatchdog en timeout).prev = s.prev := rfl
@[simp] theorem State.setWatchdog_swc (s : State) (en : Bool) (timeout : BitVec 3) : (s.setWatchdog en timeout).swc = s.swc := rfl
@[simp] theorem State.setWatchdog_fault (s : State) (en : Bool) (timeout : BitVec 3) : (s.setWatchdog en timeout).fault = s.fault := rfl
@[simp] theorem State.setWatchdog_refused (s : State) (en : Bool) (timeout : BitVec 3) : (s.setWatchdog en timeout).refused = s.refused := rfl

/-! ### dropWord -/

@[simp] theorem State.dropWord_cfg (s : State) : (s.dropWord).cfg = s.cfg := rfl
@[simp] theorem State.dropWord_trace (s : State) : (s.dropWord).trace = s.trace.tail := rfl
@[simp] theorem State.dropWord_draws (s : State) : (s.dropWord).draws = s.draws := rfl
@[simp] theorem State.dropWord_mpc (s : State) : (s.dropWord).mpc = s.mpc := rfl
@[simp] theorem State.dropWord_ctx (s : State) : (s.dropWord).ctx = s.ctx := rfl
@[simp] theorem State.dropWord_ipc (s : State) : (s.dropWord).ipc = s.ipc := rfl
@[simp] theorem State.dropWord_gie (s : State) : (s.dropWord).gie = s.gie := rfl
@[simp] theorem State.dropWord_sw (s : State) : (s.dropWord).sw = s.sw := rfl
@[simp] theorem State.dropWord_t (s : State) : (s.dropWord).t = s.t := rfl
@[simp] theorem State.dropWord_rcf (s : State) : (s.dropWord).rcf = s.rcf := rfl
@[simp] theorem State.dropWord_wdtEn (s : State) : (s.dropWord).wdtEn = s.wdtEn := rfl
@[simp] theorem State.dropWord_wdtTo (s : State) : (s.dropWord).wdtTo = s.wdtTo := rfl
@[simp] theorem State.dropWord_clkdiv (s : State) : (s.dropWord).clkdiv = s.clkdiv := rfl
@[simp] theorem State.dropWord_tmode (s : State) : (s.dropWord).tmode = s.tmode := rfl
@[simp] theorem State.dropWord_tcom (s : State) : (s.dropWord).tcom = s.tcom := rfl
@[simp] theorem State.dropWord_tcs (s : State) : (s.dropWord).tcs = s.tcs := rfl
@[simp] theorem State.dropWord_tie (s : State) : (s.dropWord).tie = s.tie := rfl
@[simp] theorem State.dropWord_tcnt (s : State) : (s.dropWord).tcnt = s.tcnt := rfl
@[simp] theorem State.dropWord_ttop (s : State) : (s.dropWord).ttop = s.ttop := rfl
@[simp] theorem State.dropWord_tcmp (s : State) : (s.dropWord).tcmp = s.tcmp := rfl
@[simp] theorem State.dropWord_tcmpa (s : State) : (s.dropWord).tcmpa = s.tcmpa := rfl
@[simp] theorem State.dropWord_toc (s : State) : (s.dropWord).toc = s.toc := rfl
@[simp] theorem State.dropWord_aref (s : State) : (s.dropWord).aref = s.aref := rfl
@[simp] theorem State.dropWord_ach (s : State) : (s.dropWord).ach = s.ach := rfl
@[simp] theorem State.dropWord_alar (s : State) : (s.dropWord).alar = s.alar := rfl
@[simp] theorem State.dropWord_aen (s : State) : (s.dropWord).aen = s.aen := rfl
@[simp] theorem State.dropWord_arun (s : State) : (s.dropWord).arun = s.arun := rfl
@[simp] theorem State.dropWord_aate (s : State) : (s.dropWord).aate = s.aate := rfl
@[simp] theorem State.dropWord_aif (s : State) : (s.dropWord).aif = s.aif := rfl
@[simp] theorem State.dropWord_aie (s : State) : (s.dropWord).aie = s.aie := rfl
@[simp] theorem State.dropWord_aps (s : State) : (s.dropWord).aps = s.aps := rfl
@[simp] theorem State.dropWord_aresh (s : State) : (s.dropWord).aresh = s.aresh := rfl
@[simp] theorem State.dropWord_gdir (s : State) : (s.dropWord).gdir = s.gdir := rfl
@[simp] theorem State.dropWord_gout (s : State) : (s.dropWord).gout = s.gout := rfl
@[simp] theorem State.dropWord_gpue (s : State) : (s.dropWord).gpue = s.gpue := rfl
@[simp] theorem State.dropWord_gpin (s : State) : (s.dropWord).gpin = s.gpin := rfl
@[simp] theorem State.dropWord_sample (s : State) : (s.dropWord).sample = s.sample := rfl
@[simp] theorem State.dropWord_prev (s : State) : (s.dropWord).prev = s.prev := rfl
@[simp] theorem State.dropWord_swc (s : State) : (s.dropWord).swc = s.swc := rfl
@[simp] theorem State.dropWord_fault (s : State) : (s.dropWord).fault = s.fault := rfl
@[simp] theorem State.dropWord_refused (s : State) : (s.dropWord).refused = s.refused := rfl

/-! ### countDraw -/

@[simp] theorem State.countDraw_cfg (s : State) : (s.countDraw).cfg = s.cfg := rfl
@[simp] theorem State.countDraw_trace (s : State) : (s.countDraw).trace = s.trace := rfl
@[simp] theorem State.countDraw_draws (s : State) : (s.countDraw).draws = s.draws + 1 := rfl
@[simp] theorem State.countDraw_mpc (s : State) : (s.countDraw).mpc = s.mpc := rfl
@[simp] theorem State.countDraw_ctx (s : State) : (s.countDraw).ctx = s.ctx := rfl
@[simp] theorem State.countDraw_ipc (s : State) : (s.countDraw).ipc = s.ipc := rfl
@[simp] theorem State.countDraw_gie (s : State) : (s.countDraw).gie = s.gie := rfl
@[simp] theorem State.countDraw_sw (s : State) : (s.countDraw).sw = s.sw := rfl
@[simp] theorem State.countDraw_t (s : State) : (s.countDraw).t = s.t := rfl
@[simp] theorem State.countDraw_rcf (s : State) : (s.countDraw).rcf = s.rcf := rfl
@[simp] theorem State.countDraw_wdtEn (s : State) : (s.countDraw).wdtEn = s.wdtEn := rfl
@[simp] theorem State.countDraw_wdtTo (s : State) : (s.countDraw).wdtTo = s.wdtTo := rfl
@[simp] theorem State.countDraw_clkdiv (s : State) : (s.countDraw).clkdiv = s.clkdiv := rfl
@[simp] theorem State.countDraw_tmode (s : State) : (s.countDraw).tmode = s.tmode := rfl
@[simp] theorem State.countDraw_tcom (s : State) : (s.countDraw).tcom = s.tcom := rfl
@[simp] theorem State.countDraw_tcs (s : State) : (s.countDraw).tcs = s.tcs := rfl
@[simp] theorem State.countDraw_tie (s : State) : (s.countDraw).tie = s.tie := rfl
@[simp] theorem State.countDraw_tcnt (s : State) : (s.countDraw).tcnt = s.tcnt := rfl
@[simp] theorem State.countDraw_ttop (s : State) : (s.countDraw).ttop = s.ttop := rfl
@[simp] theorem State.countDraw_tcmp (s : State) : (s.countDraw).tcmp = s.tcmp := rfl
@[simp] theorem State.countDraw_tcmpa (s : State) : (s.countDraw).tcmpa = s.tcmpa := rfl
@[simp] theorem State.countDraw_toc (s : State) : (s.countDraw).toc = s.toc := rfl
@[simp] theorem State.countDraw_aref (s : State) : (s.countDraw).aref = s.aref := rfl
@[simp] theorem State.countDraw_ach (s : State) : (s.countDraw).ach = s.ach := rfl
@[simp] theorem State.countDraw_alar (s : State) : (s.countDraw).alar = s.alar := rfl
@[simp] theorem State.countDraw_aen (s : State) : (s.countDraw).aen = s.aen := rfl
@[simp] theorem State.countDraw_arun (s : State) : (s.countDraw).arun = s.arun := rfl
@[simp] theorem State.countDraw_aate (s : State) : (s.countDraw).aate = s.aate := rfl
@[simp] theorem State.countDraw_aif (s : State) : (s.countDraw).aif = s.aif := rfl
@[simp] theorem State.countDraw_aie (s : State) : (s.countDraw).aie = s.aie := rfl
@[simp] theorem State.countDraw_aps (s : State) : (s.countDraw).aps = s.aps := rfl
@[simp] theorem State.countDraw_aresh (s : State) : (s.countDraw).aresh = s.aresh := rfl
@[simp] theorem State.countDraw_gdir (s : State) : (s.countDraw).gdir = s.gdir := rfl
@[simp] theorem State.countDraw_gout (s : State) : (s.countDraw).gout = s.gout := rfl
@[simp] theorem State.countDraw_gpue (s : State) : (s.countDraw).gpue = s.gpue := rfl
@[simp] theorem State.countDraw_gpin (s : State) : (s.countDraw).gpin = s.gpin := rfl
@[simp] theorem State.countDraw_sample (s : State) : (s.countDraw).sample = s.sample := rfl
@[simp] theorem State.countDraw_prev (s : State) : (s.countDraw).prev = s.prev := rfl
@[simp] theorem State.countDraw_swc (s : State) : (s.countDraw).swc = s.swc := rfl
@[simp] theorem State.countDraw_fault (s : State) : (s.countDraw).fault = s.fault := rfl
@[simp] theorem State.countDraw_refused (s : State) : (s.countDraw).refused = s.refused := rfl

/-! ### placeWord -/

@[simp] theorem State.placeWord_cfg (s : State) (w : Word) : (s.placeWord w).cfg = s.cfg := rfl
@[simp] theorem State.placeWord_trace (s : State) (w : Word) : (s.placeWord w).trace = w :: s.trace := rfl
@[simp] theorem State.placeWord_draws (s : State) (w : Word) : (s.placeWord w).draws = s.draws := rfl
@[simp] theorem State.placeWord_mpc (s : State) (w : Word) : (s.placeWord w).mpc = s.mpc := rfl
@[simp] theorem State.placeWord_ctx (s : State) (w : Word) : (s.placeWord w).ctx = s.ctx := rfl
@[simp] theorem State.placeWord_ipc (s : State) (w : Word) : (s.placeWord w).ipc = s.ipc := rfl
@[simp] theorem State.placeWord_gie (s : State) (w : Word) : (s.placeWord w).gie = s.gie := rfl
@[simp] theorem State.placeWord_sw (s : State) (w : Word) : (s.placeWord w).sw = s.sw := rfl
@[simp] theorem State.placeWord_t (s : State) (w : Word) : (s.placeWord w).t = s.t := rfl
@[simp] theorem State.placeWord_rcf (s : State) (w : Word) : (s.placeWord w).rcf = s.rcf := rfl
@[simp] theorem State.placeWord_wdtEn (s : State) (w : Word) : (s.placeWord w).wdtEn = s.wdtEn := rfl
@[simp] theorem State.placeWord_wdtTo (s : State) (w : Word) : (s.placeWord w).wdtTo = s.wdtTo := rfl
@[simp] theorem State.placeWord_clkdiv (s : State) (w : Word) : (s.placeWord w).clkdiv = s.clkdiv := rfl
@[simp] theorem State.placeWord_tmode (s : State) (w : Word) : (s.placeWord w).tmode = s.tmode := rfl
@[simp] theorem State.placeWord_tcom (s : State) (w : Word) : (s.placeWord w).tcom = s.tcom := rfl
@[simp] theorem State.placeWord_tcs (s : State) (w : Word) : (s.placeWord w).tcs = s.tcs := rfl
@[simp] theorem State.placeWord_tie (s : State) (w : Word) : (s.placeWord w).tie = s.tie := rfl
@[simp] theorem State.placeWord_tcnt (s : State) (w : Word) : (s.placeWord w).tcnt = s.tcnt := rfl
@[simp] theorem State.placeWord_ttop (s : State) (w : Word) : (s.placeWord w).ttop = s.ttop := rfl
@[simp] theorem State.placeWord_tcmp (s : State) (w : Word) : (s.placeWord w).tcmp = s.tcmp := rfl
@[simp] theorem State.placeWord_tcmpa (s : State) (w : Word) : (s.placeWord w).tcmpa = s.tcmpa := rfl
@[simp] theorem State.placeWord_toc (s : State) (w : Word) : (s.placeWord w).toc = s.toc := rfl
@[simp] theorem State.placeWord_aref (s : State) (w : Word) : (s.placeWord w).aref = s.aref := rfl
@[simp] theorem State.placeWord_ach (s : State) (w : Word) : (s.placeWord w).ach = s.ach := rfl
@[simp] theorem State.placeWord_alar (s : State) (w : Word) : (s.placeWord w).alar = s.alar := rfl
@[simp] theorem State.placeWord_aen (s : State) (w : Word) : (s.placeWord w).aen = s.aen := rfl
@[simp] theorem State.placeWord_arun (s : State) (w : Word) : (s.placeWord w).arun = s.arun := rfl
@[simp] theorem State.placeWord_aate (s : State) (w : Word) : (s.placeWord w).aate = s.aate := rfl
@[simp] theorem State.placeWord_aif (s : State) (w : Word) : (s.placeWord w).aif = s.aif := rfl
@[simp] theorem State.placeWord_aie (s : State) (w : Word) : (s.placeWord w).aie = s.aie := rfl
@[simp] theorem State.placeWord_aps (s : State) (w : Word) : (s.placeWord w).aps = s.aps := rfl
@[simp] theorem State.placeWord_aresh (s : State) (w : Word) : (s.placeWord w).aresh = s.aresh := rfl
@[simp] theorem State.placeWord_gdir (s : State) (w : Word) : (s.placeWord w).gdir = s.gdir := rfl
@[simp] theorem State.placeWord_gout (s : State) (w : Word) : (s.placeWord w).gout = s.gout := rfl
@[simp] theorem State.placeWord_gpue (s : State) (w : Word) : (s.placeWord w).gpue = s.gpue := rfl
@[simp] theorem State.placeWord_gpin (s : State) (w : Word) : (s.placeWord w).gpin = s.gpin := rfl
@[simp] theorem State.placeWord_sample (s : State) (w : Word) : (s.placeWord w).sample = s.sample := rfl
@[simp] theorem State.placeWord_prev (s : State) (w : Word) : (s.placeWord w).prev = s.prev := rfl
@[simp] theorem State.placeWord_swc (s : State) (w : Word) : (s.placeWord w).swc = s.swc := rfl
@[simp] theorem State.placeWord_fault (s : State) (w : Word) : (s.placeWord w).fault = s.fault := rfl
@[simp] theorem State.placeWord_refused (s : State) (w : Word) : (s.placeWord w).refused = s.refused := rfl

/-! ### toPhase -/

@[simp] theorem State.toPhase_cfg (s : State) (p : Phase) : (s.toPhase p).cfg = s.cfg := rfl
@[simp] theorem State.toPhase_trace (s : State) (p : Phase) : (s.toPhase p).trace = s.trace := rfl
@[simp] theorem State.toPhase_draws (s : State) (p : Phase) : (s.toPhase p).draws = s.draws := rfl
@[simp] theorem State.toPhase_mpc (s : State) (p : Phase) : (s.toPhase p).mpc = p := rfl
@[simp] theorem State.toPhase_ctx (s : State) (p : Phase) : (s.toPhase p).ctx = .main := rfl
@[simp] theorem State.toPhase_ipc (s : State) (p : Phase) : (s.toPhase p).ipc = s.ipc := rfl
@[simp] theorem State.toPhase_gie (s : State) (p : Phase) : (s.toPhase p).gie = s.gie := rfl
@[simp] theorem State.toPhase_sw (s : State) (p : Phase) : (s.toPhase p).sw = s.sw := rfl
@[simp] theorem State.toPhase_t (s : State) (p : Phase) : (s.toPhase p).t = s.t := rfl
@[simp] theorem State.toPhase_rcf (s : State) (p : Phase) : (s.toPhase p).rcf = s.rcf := rfl
@[simp] theorem State.toPhase_wdtEn (s : State) (p : Phase) : (s.toPhase p).wdtEn = s.wdtEn := rfl
@[simp] theorem State.toPhase_wdtTo (s : State) (p : Phase) : (s.toPhase p).wdtTo = s.wdtTo := rfl
@[simp] theorem State.toPhase_clkdiv (s : State) (p : Phase) : (s.toPhase p).clkdiv = s.clkdiv := rfl
@[simp] theorem State.toPhase_tmode (s : State) (p : Phase) : (s.toPhase p).tmode = s.tmode := rfl
@[simp] theorem State.toPhase_tcom (s : State) (p : Phase) : (s.toPhase p).tcom = s.tcom := rfl
@[simp] theorem State.toPhase_tcs (s : State) (p : Phase) : (s.toPhase p).tcs = s.tcs := rfl
@[simp] theorem State.toPhase_tie (s : State) (p : Phase) : (s.toPhase p).tie = s.tie := rfl
@[simp] theorem State.toPhase_tcnt (s : State) (p : Phase) : (s.toPhase p).tcnt = s.tcnt := rfl
@[simp] theorem State.toPhase_ttop (s : State) (p : Phase) : (s.toPhase p).ttop = s.ttop := rfl
@[simp] theorem State.toPhase_tcmp (s : State) (p : Phase) : (s.toPhase p).tcmp = s.tcmp := rfl
@[simp] theorem State.toPhase_tcmpa (s : State) (p : Phase) : (s.toPhase p).tcmpa = s.tcmpa := rfl
@[simp] theorem State.toPhase_toc (s : State) (p : Phase) : (s.toPhase p).toc = s.toc := rfl
@[simp] theorem State.toPhase_aref (s : State) (p : Phase) : (s.toPhase p).aref = s.aref := rfl
@[simp] theorem State.toPhase_ach (s : State) (p : Phase) : (s.toPhase p).ach = s.ach := rfl
@[simp] theorem State.toPhase_alar (s : State) (p : Phase) : (s.toPhase p).alar = s.alar := rfl
@[simp] theorem State.toPhase_aen (s : State) (p : Phase) : (s.toPhase p).aen = s.aen := rfl
@[simp] theorem State.toPhase_arun (s : State) (p : Phase) : (s.toPhase p).arun = s.arun := rfl
@[simp] theorem State.toPhase_aate (s : State) (p : Phase) : (s.toPhase p).aate = s.aate := rfl
@[simp] theorem State.toPhase_aif (s : State) (p : Phase) : (s.toPhase p).aif = s.aif := rfl
@[simp] theorem State.toPhase_aie (s : State) (p : Phase) : (s.toPhase p).aie = s.aie := rfl
@[simp] theorem State.toPhase_aps (s : State) (p : Phase) : (s.toPhase p).aps = s.aps := rfl
@[simp] theorem State.toPhase_aresh (s : State) (p : Phase) : (s.toPhase p).aresh = s.aresh := rfl
@[simp] theorem State.toPhase_gdir (s : State) (p : Phase) : (s.toPhase p).gdir = s.gdir := rfl
@[simp] theorem State.toPhase_gout (s : State) (p : Phase) : (s.toPhase p).gout = s.gout := rfl
@[simp] theorem State.toPhase_gpue (s : State) (p : Phase) : (s.toPhase p).gpue = s.gpue := rfl
@[simp] theorem State.toPhase_gpin (s : State) (p : Phase) : (s.toPhase p).gpin = s.gpin := rfl
@[simp] theorem State.toPhase_sample (s : State) (p : Phase) : (s.toPhase p).sample = s.sample := rfl
@[simp] theorem State.toPhase_prev (s : State) (p : Phase) : (s.toPhase p).prev = s.prev := rfl
@[simp] theorem State.toPhase_swc (s : State) (p : Phase) : (s.toPhase p).swc = s.swc := rfl
@[simp] theorem State.toPhase_fault (s : State) (p : Phase) : (s.toPhase p).fault = s.fault := rfl
@[simp] theorem State.toPhase_refused (s : State) (p : Phase) : (s.toPhase p).refused = s.refused := rfl

/-! ### toHandler -/

@[simp] theorem State.toHandler_cfg (s : State) (p : HandlerPhase) : (s.toHandler p).cfg = s.cfg := rfl
@[simp] theorem State.toHandler_trace (s : State) (p : HandlerPhase) : (s.toHandler p).trace = s.trace := rfl
@[simp] theorem State.toHandler_draws (s : State) (p : HandlerPhase) : (s.toHandler p).draws = s.draws := rfl
@[simp] theorem State.toHandler_mpc (s : State) (p : HandlerPhase) : (s.toHandler p).mpc = s.mpc := rfl
@[simp] theorem State.toHandler_ctx (s : State) (p : HandlerPhase) : (s.toHandler p).ctx = .isr := rfl
@[simp] theorem State.toHandler_ipc (s : State) (p : HandlerPhase) : (s.toHandler p).ipc = p := rfl
@[simp] theorem State.toHandler_gie (s : State) (p : HandlerPhase) : (s.toHandler p).gie = s.gie := rfl
@[simp] theorem State.toHandler_sw (s : State) (p : HandlerPhase) : (s.toHandler p).sw = s.sw := rfl
@[simp] theorem State.toHandler_t (s : State) (p : HandlerPhase) : (s.toHandler p).t = s.t := rfl
@[simp] theorem State.toHandler_rcf (s : State) (p : HandlerPhase) : (s.toHandler p).rcf = s.rcf := rfl
@[simp] theorem State.toHandler_wdtEn (s : State) (p : HandlerPhase) : (s.toHandler p).wdtEn = s.wdtEn := rfl
@[simp] theorem State.toHandler_wdtTo (s : State) (p : HandlerPhase) : (s.toHandler p).wdtTo = s.wdtTo := rfl
@[simp] theorem State.toHandler_clkdiv (s : State) (p : HandlerPhase) : (s.toHandler p).clkdiv = s.clkdiv := rfl
@[simp] theorem State.toHandler_tmode (s : State) (p : HandlerPhase) : (s.toHandler p).tmode = s.tmode := rfl
@[simp] theorem State.toHandler_tcom (s : State) (p : HandlerPhase) : (s.toHandler p).tcom = s.tcom := rfl
@[simp] theorem State.toHandler_tcs (s : State) (p : HandlerPhase) : (s.toHandler p).tcs = s.tcs := rfl
@[simp] theorem State.toHandler_tie (s : State) (p : HandlerPhase) : (s.toHandler p).tie = s.tie := rfl
@[simp] theorem State.toHandler_tcnt (s : State) (p : HandlerPhase) : (s.toHandler p).tcnt = s.tcnt := rfl
@[simp] theorem State.toHandler_ttop (s : State) (p : HandlerPhase) : (s.toHandler p).ttop = s.ttop := rfl
@[simp] theorem State.toHandler_tcmp (s : State) (p : HandlerPhase) : (s.toHandler p).tcmp = s.tcmp := rfl
@[simp] theorem State.toHandler_tcmpa (s : State) (p : HandlerPhase) : (s.toHandler p).tcmpa = s.tcmpa := rfl
@[simp] theorem State.toHandler_toc (s : State) (p : HandlerPhase) : (s.toHandler p).toc = s.toc := rfl
@[simp] theorem State.toHandler_aref (s : State) (p : HandlerPhase) : (s.toHandler p).aref = s.aref := rfl
@[simp] theorem State.toHandler_ach (s : State) (p : HandlerPhase) : (s.toHandler p).ach = s.ach := rfl
@[simp] theorem State.toHandler_alar (s : State) (p : HandlerPhase) : (s.toHandler p).alar = s.alar := rfl
@[simp] theorem State.toHandler_aen (s : State) (p : HandlerPhase) : (s.toHandler p).aen = s.aen := rfl
@[simp] theorem State.toHandler_arun (s : State) (p : HandlerPhase) : (s.toHandler p).arun = s.arun := rfl
@[simp] theorem State.toHandler_aate (s : State) (p : HandlerPhase) : (s.toHandler p).aate = s.aate := rfl
@[simp] theorem State.toHandler_aif (s : State) (p : HandlerPhase) : (s.toHandler p).aif = s.aif := rfl
@[simp] theorem State.toHandler_aie (s : State) (p : HandlerPhase) : (s.toHandler p).aie = s.aie := rfl
@[simp] theorem State.toHandler_aps (s : State) (p : HandlerPhase) : (s.toHandler p).aps = s.aps := rfl
@[simp] theorem State.toHandler_aresh (s : State) (p : HandlerPhase) : (s.toHandler p).aresh = s.aresh := rfl
@[simp] theorem State.toHandler_gdir (s : State) (p : HandlerPhase) : (s.toHandler p).gdir = s.gdir := rfl
@[simp] theorem State.toHandler_gout (s : State) (p : HandlerPhase) : (s.toHandler p).gout = s.gout := rfl
@[simp] theorem State.toHandler_gpue (s : State) (p : HandlerPhase) : (s.toHandler p).gpue = s.gpue := rfl
@[simp] theorem State.toHandler_gpin (s : State) (p : HandlerPhase) : (s.toHandler p).gpin = s.gpin := rfl
@[simp] theorem State.toHandler_sample (s : State) (p : HandlerPhase) : (s.toHandler p).sample = s.sample := rfl
@[simp] theorem State.toHandler_prev (s : State) (p : HandlerPhase) : (s.toHandler p).prev = s.prev := rfl
@[simp] theorem State.toHandler_swc (s : State) (p : HandlerPhase) : (s.toHandler p).swc = s.swc := rfl
@[simp] theorem State.toHandler_fault (s : State) (p : HandlerPhase) : (s.toHandler p).fault = s.fault := rfl
@[simp] theorem State.toHandler_refused (s : State) (p : HandlerPhase) : (s.toHandler p).refused = s.refused := rfl

end Sys2Proof.Machine
end

