-- ==== Sys2Proof/Laws/Effects.lean ====
section
/-! SUPPORT. What a step can do, said once: every instruction is a guarded change of state, so a next state gives the
guard and the change (`exec_next`); a later proof splits on the instruction and reads the change's fields. -/

namespace Sys2Proof.Machine

theorem guarded_next_iff {i : Instr} {s a s' : State} :
    guarded i s a = .next s' ↔ enabled i s = true ∧ s' = a := by
  unfold guarded
  cases enabled i s <;> simp [eq_comm]

theorem guarded_of_enabled {i : Instr} {s a : State} (h : enabled i s = true) : guarded i s a = .next a := by
  simp [guarded, h]

theorem guarded_of_disabled {i : Instr} {s a : State} (h : enabled i s = false) :
    guarded i s a = .fault .noStep := by
  simp [guarded, h]

/-- The state each instruction's step answers where its guard holds. -/
def after : Instr → State → State
  | .suCli, s => (s.setGie false).goto .suClrrc
  | .suClrrc, s => (s.setRcf 0).goto .suWdoff
  | .suWdoff, s => (s.setWatchdog (s.wdtEn && s.wdtLocked) s.wdtTo).goto .inClk
  | .inClk, s => { s.goto .inTcnt0 with clkdiv := s.cfg.clkDivCfg }
  | .inTcnt0, s => { s.goto .inTcmp with tcnt := 0 }
  | .inTcmp, s => (s.writeCmp (centerByte s.cfg)).goto .inTtop
  | .inTtop, s => { s.goto .inTmode with ttop := s.cfg.pwmTop }
  | .inTmode, s => { s.goto .inTirq with tmode := tmodePwmTop, tcom := tcomNoninv, tcs := tcsRunning, toc := true }
  | .inTirq, s => { s.goto .inAmux with tie := 0 }
  | .inAmux, s => { s.goto .inActl with aref := s.cfg.adcRef, ach := s.cfg.adcCh, alar := true }
  | .inActl, s =>
    { s.goto .inGdir with aen := true, aate := true, aie := true, aps := s.cfg.adcPs, arun := true }
  | .inGdir, s => { s.goto .inGpue with gdir := bit s.cfg.pwmPin }
  | .inGpue, s => { s.goto .sei with gpue := bit s.cfg.swPin, gout := 0 }
  | .mlSei, s => (s.setGie true).goto .settle
  | .mlSettle, s => s.goto .seed
  | .mlSeed, s => (s.writePrev false).goto .read
  | .mlRead, s => { s.goto .decide with sw := switchState s.cfg s.gpin }
  | .mlCenter, s => (s.writeCmp (centerByte s.cfg)).goto .record
  | .mlMread, s => { s.goto .mwrite with t := s.sample }
  | .mlSkip, s => s.goto .record
  | .mlMwrite, s => (s.writeCmp (scale s.cfg s.t)).goto .record
  | .mlRecord, s => (s.writePrev s.sw).goto .read
  | .isEnter, s => s.enterInterrupt
  | .isCapture, s =>
    if s.alar then { s.writeSample s.aresh with ipc := .ret } else s.raise .adcAlignmentUnmodelled
  | .isReturn, s => s.returnFromInterrupt
  | .tmTick, s =>
    if reservedTimerField s then s.raise .timerFieldReserved
    else if s.tmode ≠ tmodePwmTop then s.raise .timerModeUnmodelled
    else s.tick
  | .adDone vv, s => { s.setAif true with aresh := vv, arun := s.aate }
  | .ioLatch ff, s =>
    if (Instr.ioLatch ff).wf s.cfg.nPins then { s with gpin := latchValue ff s } else s.refuse .badArg
  | .evSw b, s =>
    if (Instr.evSw b).wf s.cfg.nPins then { s with swc := if b = 0 then .closedContact else .openContact }
    else s.refuse .badArg
  | .rsPor v, s => ((s.resetState v).setRcf rcfPor).setWatchdog s.cfg.wdtPorEn 0
  | .rsWdt v, s => ((s.resetState v).setRcf (s.rcf ||| rcfWdt)).setWatchdog true 0
  | .rsOth v, s => (s.resetState v).setRcf (s.rcf ||| rcfOth)

/-- Every instruction is a guarded change of state. -/
theorem exec_eq_guarded (i : Instr) (s : State) : exec i s = guarded i s (after i s) := by
  cases i <;> rfl

theorem exec_next {i : Instr} {s s' : State} (h : exec i s = .next s') :
    enabled i s = true ∧ s' = after i s :=
  guarded_next_iff.mp (exec_eq_guarded i s ▸ h)

theorem exec_of_enabled {i : Instr} {s : State} (h : enabled i s = true) : exec i s = .next (after i s) := by
  rw [exec_eq_guarded, guarded_of_enabled h]

theorem exec_of_disabled {i : Instr} {s : State} (h : enabled i s = false) : exec i s = .fault .noStep := by
  rw [exec_eq_guarded, guarded_of_disabled h]

/-- No meaning refuses: a word without a legal argument sets the mark instead. -/
theorem exec_not_refused (i : Instr) (s : State) (r : Refusal) : exec i s ≠ .refused r := by
  rw [exec_eq_guarded, guarded]
  split <;> simp

theorem whenUnmarked_next {s s' : State} {k : Result} (h : whenUnmarked s k = .next s') :
    s.fault = none ∧ s.refused = none ∧ k = .next s' := by
  unfold whenUnmarked at h
  split at h <;> simp_all

theorem whenUnmarked_of_unmarked {s : State} {k : Result} (hf : s.fault = none) (hr : s.refused = none) :
    whenUnmarked s k = k := by
  simp [whenUnmarked, hf, hr]

/-- A step's next state: a refusal mark, or the change of one enabled instruction of the state whose word was taken. -/
theorem step_next {s s' : State} (h : step s = .next s') :
    s.fault = none ∧ s.refused = none ∧
      ((s.cfg.wf = false ∧ s' = s.refuse .illFormedConfig) ∨
       (s.cfg.wf = true ∧ ∃ r, s' = (nextWord s).2.refuse r) ∨
       (s.cfg.wf = true ∧ ∃ i, decode (nextWord s).2.cfg.nPins (nextWord s).1 = .ok i ∧
          enabled i (nextWord s).2 = true ∧ s' = after i (nextWord s).2)) := by
  obtain ⟨hf, hr, hk⟩ := whenUnmarked_next h
  refine ⟨hf, hr, ?_⟩
  cases hw : s.cfg.wf with
  | false =>
    rw [hw] at hk
    simp only [Bool.false_eq_true, if_false] at hk
    injection hk with hk
    exact .inl ⟨rfl, hk.symm⟩
  | true =>
    rw [hw] at hk
    simp only [if_true, runWord] at hk
    split at hk
    · rename_i i hd
      obtain ⟨he, rfl⟩ := exec_next hk
      exact .inr (.inr ⟨rfl, i, hd, he, rfl⟩)
    · rename_i r _
      injection hk with hk
      exact .inr (.inl ⟨rfl, r, hk.symm⟩)

/-- The word taken next leaves every field but the model's own trace and draw counter. -/
theorem nextWord_state (s : State) : (nextWord s).2 = s.dropWord ∨ (nextWord s).2 = s.countDraw := by
  unfold nextWord
  split
  · exact .inl rfl
  · exact .inr rfl

end Sys2Proof.Machine
end

