-- ==== Sys2Proof/Laws/Ops.lean ====
section
/-! SUPPORT. What each shared operation does, said once: the data cells, the compare write, the bits of the port
registers, the latch, the trace, and the steps that make reachable states. -/

namespace Sys2Proof.Machine

/-! ### The data cells (20_memory.md R80): read after write, and each write leaves the other cell -/

@[simp] theorem readSample_writeSample (s : State) (v : Byte) : (s.writeSample v).readSample = v := rfl
@[simp] theorem readPrev_writeSample (s : State) (v : Byte) : (s.writeSample v).readPrev = s.readPrev := rfl
@[simp] theorem readPrev_writePrev (s : State) (b : Bool) : (s.writePrev b).readPrev = b := rfl
@[simp] theorem readSample_writePrev (s : State) (b : Bool) : (s.writePrev b).readSample = s.readSample := rfl

/-! ### The compare write (42_pwm_timer.md R190) -/

theorem writeCmp_held {s : State} {v : Byte} (h : s.cmpHeld = true) : s.writeCmp v = { s with tcmp := v } := by
  simp [State.writeCmp, h]

theorem writeCmp_now {s : State} {v : Byte} (h : s.cmpHeld = false) :
    s.writeCmp v = { s with tcmp := v, tcmpa := v } := by
  simp [State.writeCmp, h]

theorem cmpHeld_iff (s : State) : s.cmpHeld = true ↔ s.cfg.cmpBuffered = true ∧ s.tmode = tmodePwmTop := by
  simp [State.cmpHeld]

/-! ### Bits of the port registers -/

theorem getLsbD_bit {p k : Nat} (hp : p < 8) : (bit p).getLsbD k = decide (k = p) := by
  by_cases hk : k < 8
  · interval_cases p <;> interval_cases k <;> decide
  · have : k ≠ p := by omega
    rw [BitVec.getLsbD_of_ge _ _ (by omega)]
    simp [this]

/-- The gathered register has the level of each pin below `n`, and 0 above (44_gpio_latch.md R272). -/
theorem getLsbD_gatherBits (f : Nat → Bool) {n : Nat} (hn : n ≤ 8) (k : Nat) :
    (gatherBits f n).getLsbD k = (decide (k < n) && f k) := by
  induction n with
  | zero => simp [gatherBits]
  | succ n ih =>
    rw [gatherBits, BitVec.getLsbD_or, ih (by omega)]
    have hb := getLsbD_bit (p := n) (k := k) (by omega)
    by_cases hf : f n = true
    · rw [if_pos hf, hb]
      by_cases hk : k = n
      · subst hk; simp [hf]
      · have : (k < n + 1) ↔ k < n := by omega
        simp [hk, this]
    · rw [if_neg hf]
      by_cases hk : k = n
      · subst hk; simp [hf]
      · have : (k < n + 1) ↔ k < n := by omega
        simp [this]

theorem gatherBits_lt (f : Nat → Bool) {n : Nat} (hn : n ≤ 8) : (gatherBits f n).toNat < 2 ^ n := by
  apply Nat.lt_pow_two_of_testBit
  intro k hk
  have := getLsbD_gatherBits f hn k
  rw [← BitVec.testBit_toNat] at this
  rw [this]
  simp [Nat.not_lt.mpr hk]

theorem latchValue_lt (ff : Byte) (s : State) (hn : s.cfg.nPins ≤ 8) : (latchValue ff s).toNat < 2 ^ s.cfg.nPins :=
  gatherBits_lt _ hn

theorem bit_lt {p n : Nat} (hp : p < n) : (bit p).toNat < 2 ^ n := by
  have h1 : (2 : Nat) ^ p < 2 ^ n := Nat.pow_lt_pow_right (by omega) hp
  have h2 : (bit p).toNat ≤ 2 ^ p := by simpa [bit] using Nat.mod_le _ _
  omega

/-! ### Marks -/

theorem takeWord_next {i : Instr} {s s' : State} (h : takeWord i s = .next s') :
    s.fault = none ∧ s.refused = none ∧ enabled i s = true ∧ s' = after i s := by
  obtain ⟨hf, hr, hk⟩ := whenUnmarked_next h
  exact ⟨hf, hr, exec_next hk⟩

theorem takeWord_of_unmarked {i : Instr} {s : State} (hf : s.fault = none) (hr : s.refused = none) :
    takeWord i s = exec i s :=
  whenUnmarked_of_unmarked hf hr

/-! ### Traces -/

theorem takeWords_cons {i : Instr} {is : List Instr} {s s' : State} :
    takeWords (i :: is) s = .next s' ↔ ∃ m, takeWord i s = .next m ∧ takeWords is m = .next s' := by
  rw [takeWords]
  split <;> simp_all

theorem takeWords_append {is js : List Instr} {s s' : State} :
    takeWords (is ++ js) s = .next s' ↔ ∃ m, takeWords is s = .next m ∧ takeWords js m = .next s' := by
  induction is generalizing s with
  | nil => simp [takeWords]
  | cons i is ih =>
    simp only [List.cons_append, takeWords_cons, ih]
    constructor
    · rintro ⟨m, h, n, h', h''⟩
      exact ⟨n, ⟨m, h, h'⟩, h''⟩
    · rintro ⟨n, ⟨m, h, h'⟩, h''⟩
      exact ⟨m, h, n, h', h''⟩

@[simp] theorem endState_fault (r : Fault) : endState (.fault r) = .fault r := rfl
@[simp] theorem endState_refused (r : Refusal) : endState (.refused r) = .refused r := rfl

/-- An end state is the state after the last word, and has no mark (70_reset_and_hazards.md R451). -/
theorem endState_next {r : Result} {e : State} :
    endState r = .next e ↔ r = .next e ∧ e.fault = none ∧ e.refused = none := by
  cases r with
  | next s =>
    constructor
    · intro h
      obtain ⟨hf, hr, hs⟩ := whenUnmarked_next h
      injection hs with hs
      exact hs ▸ ⟨rfl, hf, hr⟩
    · rintro ⟨h, hf, hr⟩
      injection h with h
      subst h
      exact whenUnmarked_of_unmarked hf hr
  | fault r => simp
  | refused r => simp

theorem runTrace_next {is : List Instr} {s e : State} :
    runTrace is s = .next e ↔ takeWords is s = .next e ∧ e.fault = none ∧ e.refused = none := endState_next

theorem runWords_next {ws : List Word} {s e : State} :
    runWords ws s = .next e ↔
      runSteps ws.length { s with trace := ws } = .next e ∧ e.fault = none ∧ e.refused = none := endState_next

/-- A trace of two parts ends where the second ends from the first's end state. -/
theorem runTrace_append {is js : List Instr} {s e : State} :
    runTrace (is ++ js) s = .next e ↔ ∃ m, takeWords is s = .next m ∧ runTrace js m = .next e := by
  simp only [runTrace_next, takeWords_append]
  exact ⟨fun ⟨⟨m, h, h'⟩, u⟩ => ⟨m, h, h', u⟩, fun ⟨m, h, h', u⟩ => ⟨⟨m, h, h'⟩, u⟩⟩

theorem run_succ (M : Host.Core) (k : Nat) (s : M.State) :
    M.run (k + 1) s =
      match M.step s with
      | .next s' => M.run k s'
      | .fault r => .fault r
      | .refused r => .refused r := rfl

/-- The steps of the machine are the steps of the host's core. -/
theorem runSteps_eq_run (k : Nat) (s : State) : runSteps k s = Host.Core.run core k s := by
  induction k generalizing s with
  | zero => rfl
  | succ k ih =>
    refine Eq.trans ?_ (run_succ core k s).symm
    rw [runSteps]
    generalize hr : step s = r
    have hc : core.step s = r := hr
    rw [hc]
    cases r with
    | next s' => exact ih s'
    | fault r => rfl
    | refused r => rfl

/-- What holds of the start and is kept by each word of a trace holds of its end. -/
theorem takeWords_induction {P : State → Prop} {Q : Instr → Prop}
    (keep : ∀ i s, Q i → P s → enabled i s = true → P (after i s)) {is : List Instr} {s s' : State}
    (hq : ∀ i ∈ is, Q i) (hp : P s) (h : takeWords is s = .next s') : P s' := by
  induction is generalizing s with
  | nil =>
    simp only [takeWords] at h
    injection h with h
    exact h ▸ hp
  | cons i is ih =>
    obtain ⟨m, hm, h⟩ := takeWords_cons.mp h
    obtain ⟨-, -, he, rfl⟩ := takeWord_next hm
    exact ih (fun j hj => hq j (List.mem_cons_of_mem _ hj)) (keep i s (hq i List.mem_cons_self) hp he) h

/-! ### What the reads of a trace find (45_control_loop.md R314) -/

@[simp] theorem readsOnly_nil (b : Bool) (s : State) : ReadsOnly b [] s := by
  intro a c x h
  simp at h

/-- The reads of a trace are its first word, if it is one, and the reads of the rest. -/
theorem readsOnly_cons {b : Bool} {i : Instr} {is : List Instr} {s : State} :
    ReadsOnly b (i :: is) s ↔
      (i = .mlRead → switchState s.cfg s.gpin = b) ∧ ∀ m, takeWord i s = .next m → ReadsOnly b is m := by
  constructor
  · intro h
    refine ⟨?_, fun m hm a c x e hx => h (i :: a) c x (by rw [e]; rfl) (takeWords_cons.mpr ⟨m, hm, hx⟩)⟩
    rintro rfl
    exact h [] is s rfl rfl
  · rintro ⟨h, ht⟩ (_ | ⟨j, a⟩) c x e hx
    · injection e with e _
      injection hx with hx
      exact hx ▸ h e
    · injection e with e e'
      subst e
      obtain ⟨m, hm, hx⟩ := takeWords_cons.mp hx
      exact ht m hm a c x e' hx

/-- No instruction changes the configuration. -/
@[simp] theorem after_cfg (i : Instr) (s : State) : (after i s).cfg = s.cfg := by
  cases i <;> simp only [after] <;> (try split) <;> (try split) <;> rfl

/-- No instruction changes the trace. -/
@[simp] theorem after_trace (i : Instr) (s : State) : (after i s).trace = s.trace := by
  cases i <;> simp only [after] <;> (try split) <;> (try split) <;> rfl

/-- A trace of legal words from a reachable state leads to a reachable one. -/
theorem reachable_takeWords {is : List Instr} {s s' : State} (hs : Reachable s)
    (hw : ∀ i ∈ is, i.wf s.cfg.nPins = true) (h : takeWords is s = .next s') : Reachable s' := by
  induction is generalizing s with
  | nil =>
    simp only [takeWords] at h
    injection h with h
    exact h ▸ hs
  | cons i is ih =>
    obtain ⟨m, hm, h⟩ := takeWords_cons.mp h
    obtain ⟨hf, hr, hk⟩ := whenUnmarked_next hm
    obtain ⟨-, rfl⟩ := exec_next hk
    refine ih (.step i hs ⟨hf, hr, hw i List.mem_cons_self, hk⟩) (fun j hj => ?_) h
    rw [after_cfg]
    exact hw j (List.mem_cons_of_mem _ hj)

end Sys2Proof.Machine
end

