-- ==== Sys2Proof/Laws/PerInstr.lean ====
section
/-! SUPPORT. Per instruction: the word the encoder writes has the head the decoder looks the operation up by, and its
argument field is the instruction's. -/

namespace Sys2Proof.Laws.HeadOfEncode

/-- The encoded word's unit, op and argument fields lead the operation map of spec/30_encoding.md R112 back to the
instruction. -/
def Statement (i : Instr) : Prop :=
  lookup (unitOf (encode i)).toNat (opOf (encode i)).toNat (argOf (encode i)) = some i
    ∧ argOf (encode i) = i.arg

/-- The fields of a word put together from its fields (30_encoding.md R110). -/
theorem unitOf_append (u o : BitVec 4) (a : Byte) : unitOf (u ++ o ++ a) = u := by
  unfold unitOf
  apply BitVec.eq_of_getLsbD_eq
  intro k hk
  simp only [BitVec.getLsbD_extractLsb', BitVec.getLsbD_append]
  have h1 : ¬ (12 + k < 8) := by omega
  have h2 : ¬ (12 + k - 8 < 4) := by omega
  have h3 : 12 + k - 8 - 4 = k := by omega
  simp [h1, h2, h3, hk]

theorem opOf_append (u o : BitVec 4) (a : Byte) : opOf (u ++ o ++ a) = o := by
  unfold opOf
  apply BitVec.eq_of_getLsbD_eq
  intro k hk
  simp only [BitVec.getLsbD_extractLsb', BitVec.getLsbD_append]
  have h1 : ¬ (8 + k < 8) := by omega
  have h2 : 8 + k - 8 < 4 := by omega
  have h3 : 8 + k - 8 = k := by omega
  simp [h3, hk]

theorem argOf_append (u o : BitVec 4) (a : Byte) : argOf (u ++ o ++ a) = a := by
  unfold argOf
  apply BitVec.eq_of_getLsbD_eq
  intro k hk
  simp only [BitVec.getLsbD_extractLsb', BitVec.getLsbD_append]
  simp [hk]

theorem unitOf_encode (i : Instr) : unitOf (encode i) = i.unit := unitOf_append ..

theorem opOf_encode (i : Instr) : opOf (encode i) = i.op := opOf_append ..

theorem argOf_encode (i : Instr) : argOf (encode i) = i.arg := argOf_append ..

/-- The two clauses from the lookup of the instruction's own fields. -/
theorem of_lookup {i : Instr} (h : lookup i.unit.toNat i.op.toNat i.arg = some i) : Statement i := by
  rw [Statement, unitOf_encode, opOf_encode, argOf_encode]
  exact ⟨h, rfl⟩

theorem suCli : Statement (.suCli) := of_lookup rfl
theorem suClrrc : Statement (.suClrrc) := of_lookup rfl
theorem suWdoff : Statement (.suWdoff) := of_lookup rfl
theorem inClk : Statement (.inClk) := of_lookup rfl
theorem inTcnt0 : Statement (.inTcnt0) := of_lookup rfl
theorem inTcmp : Statement (.inTcmp) := of_lookup rfl
theorem inTtop : Statement (.inTtop) := of_lookup rfl
theorem inTmode : Statement (.inTmode) := of_lookup rfl
theorem inTirq : Statement (.inTirq) := of_lookup rfl
theorem inAmux : Statement (.inAmux) := of_lookup rfl
theorem inActl : Statement (.inActl) := of_lookup rfl
theorem inGdir : Statement (.inGdir) := of_lookup rfl
theorem inGpue : Statement (.inGpue) := of_lookup rfl
theorem mlSei : Statement (.mlSei) := of_lookup rfl
theorem mlSettle : Statement (.mlSettle) := of_lookup rfl
theorem mlSeed : Statement (.mlSeed) := of_lookup rfl
theorem mlRead : Statement (.mlRead) := of_lookup rfl
theorem mlCenter : Statement (.mlCenter) := of_lookup rfl
theorem mlMread : Statement (.mlMread) := of_lookup rfl
theorem mlSkip : Statement (.mlSkip) := of_lookup rfl
theorem mlMwrite : Statement (.mlMwrite) := of_lookup rfl
theorem mlRecord : Statement (.mlRecord) := of_lookup rfl
theorem isEnter : Statement (.isEnter) := of_lookup rfl
theorem isCapture : Statement (.isCapture) := of_lookup rfl
theorem isReturn : Statement (.isReturn) := of_lookup rfl
theorem tmTick : Statement (.tmTick) := of_lookup rfl
theorem adDone (vv : Byte) : Statement (.adDone vv) := of_lookup rfl
theorem ioLatch (ff : Byte) : Statement (.ioLatch ff) := of_lookup rfl
theorem evSw (b : Byte) : Statement (.evSw b) := of_lookup rfl
theorem rsPor (v : Byte) : Statement (.rsPor v) := of_lookup rfl
theorem rsWdt (v : Byte) : Statement (.rsWdt v) := of_lookup rfl
theorem rsOth (v : Byte) : Statement (.rsOth v) := of_lookup rfl

end Sys2Proof.Laws.HeadOfEncode
end

