-- ==== Sys2Proof/Machine/Asm.lean ====
section
/-! DEFINITION. The assembly syntax of a trace (spec/30_encoding.md R119, R120): one line of characters to the action
word, or the pseudo-operation, it stands for. No rule of the block depends on it (log entry 17). -/

namespace Sys2Proof.Machine

/-- What a line of a trace stands for. -/
inductive AsmLine where
  /-- an empty line or a comment -/
  | blank
  /-- one action word, which may be one that refuses (95_test_vectors.md P5) -/
  | word (w : Word)
  | pseudo (p : Pseudo)
  deriving DecidableEq, Repr

/-- The mnemonics of the words without an argument, in lower case, with the word's upper byte (30_encoding.md R112). -/
def bareNames : List (List Char × Nat) :=
  [(['s','u','.','c','l','i'], 0x10), (['s','u','.','c','l','r','r','c'], 0x11),
   (['s','u','.','w','d','o','f','f'], 0x12)] ++
  [(['i','n','.','c','l','k'], 0x20), (['i','n','.','t','c','n','t','0'], 0x21), (['i','n','.','t','c','m','p'], 0x22),
   (['i','n','.','t','t','o','p'], 0x23), (['i','n','.','t','m','o','d','e'], 0x24),
   (['i','n','.','t','i','r','q'], 0x25), (['i','n','.','a','m','u','x'], 0x26), (['i','n','.','a','c','t','l'], 0x27),
   (['i','n','.','g','d','i','r'], 0x28), (['i','n','.','g','p','u','e'], 0x29)] ++
  [(['m','l','.','s','e','i'], 0x30), (['m','l','.','s','e','t','t','l','e'], 0x31), (['m','l','.','s','e','e','d'], 0x32),
   (['m','l','.','r','e','a','d'], 0x33), (['m','l','.','c','e','n','t','e','r'], 0x34),
   (['m','l','.','m','r','e','a','d'], 0x35), (['m','l','.','s','k','i','p'], 0x36),
   (['m','l','.','m','w','r','i','t','e'], 0x37), (['m','l','.','r','e','c','o','r','d'], 0x38)] ++
  [(['i','s','.','e','n','t','e','r'], 0x40), (['i','s','.','c','a','p','t','u','r','e'], 0x41),
   (['i','s','.','r','e','t','u','r','n'], 0x42), (['t','m','.','t','i','c','k'], 0x50)]

/-- The mnemonics of the words with an argument. -/
def argNames : List (List Char × Nat) :=
  [(['a','d','.','d','o','n','e'], 0x60), (['i','o','.','l','a','t','c','h'], 0x70), (['e','v','.','s','w'], 0x80),
   (['r','s','.','p','o','r'], 0x90), (['r','s','.','w','d','t'], 0x91), (['r','s','.','o','t','h'], 0x92)]

/-- The word with the upper byte `h` and the argument `a`. -/
def wordOf (h a : Nat) : Word := BitVec.ofNat 16 (h * 256 + a)

/-- The value of a digit in base 10 or 16. -/
def digitVal (base : Nat) (c : Char) : Option Nat :=
  let n := c.toNat
  let v := if 48 ≤ n ∧ n ≤ 57 then n - 48
    else if 97 ≤ n ∧ n ≤ 102 then n - 87
    else if 65 ≤ n ∧ n ≤ 70 then n - 55
    else base
  if v < base then some v else none

/-- The number that digits spell, the most significant first. -/
def digitsVal (base : Nat) : Nat → List Char → Option Nat
  | acc, [] => some acc
  | acc, c :: cs =>
    match digitVal base c with
    | some v => digitsVal base (acc * base + v) cs
    | none => none

/-- A hex literal `0x...` or a decimal (30_encoding.md R119). -/
def numberVal : List Char → Option Nat
  | '0' :: 'x' :: c :: cs => digitsVal 16 0 (c :: cs)
  | [] => none
  | c :: cs => digitsVal 10 0 (c :: cs)

/-- An ARG: a number below 256 (30_encoding.md R119). -/
def argVal (cs : List Char) : Option Nat :=
  match numberVal cs with
  | some v => if v < 256 then some v else none
  | none => none

/-- A line up to its comment (30_encoding.md R119). -/
def beforeComment (cs : List Char) : List Char := cs.takeWhile (fun c => c != ';')

/-- The words of a line between blanks. -/
def tokens : List Char → List Char → List (List Char)
  | acc, [] => if acc = [] then [] else [acc.reverse]
  | acc, c :: cs =>
    if c = ' ' ∨ c = '\t' then
      if acc = [] then tokens [] cs else acc.reverse :: tokens [] cs
    else tokens (c :: acc) cs

/-- A line of one token: a word without an argument, IO.LATCH without its argument, a pseudo-operation, or a raw word
of four hex digits (95_test_vectors.md P5). -/
def assembleOne (m : List Char) : Option AsmLine :=
  match bareNames.lookup m with
  | some h => some (.word (wordOf h 0))
  | none =>
    if m = ['i','o','.','l','a','t','c','h'] then some (.word (wordOf 0x70 0))
    else if m = ['b','o','o','t'] then some (.pseudo .boot)
    else if m = ['t','m','.','p','e','r','i','o','d'] then some (.pseudo .tmPeriod)
    else if m = ['m','l','.','i','t','e','r'] then some (.pseudo .mlIter)
    else
      match m with
      | ['0', 'x', a, b, c, d] =>
        match digitsVal 16 0 [a, b, c, d] with
        | some v => some (.word (BitVec.ofNat 16 v))
        | none => none
      | _ => none

/-- A line of two tokens: a word with its argument, or `ad.sample vv`. -/
def assembleTwo (m a : List Char) : Option AsmLine :=
  match argNames.lookup m with
  | some h =>
    if h = 0x80 ∧ a = ['c','l','o','s','e','d'] then some (.word (wordOf h 0))
    else if h = 0x80 ∧ a = ['o','p','e','n'] then some (.word (wordOf h 1))
    else
      match argVal a with
      | some v => some (.word (wordOf h v))
      | none => none
  | none =>
    if m = ['a','d','.','s','a','m','p','l','e'] then
      match argVal a with
      | some v => some (.pseudo (.adSample (BitVec.ofNat 8 v)))
      | none => none
    else none

/-- One line of a trace (30_encoding.md R119); none where the line is not of the syntax. -/
def assembleLine (cs : List Char) : Option AsmLine :=
  match tokens [] (beforeComment cs) with
  | [] => some .blank
  | [m] => assembleOne m
  | [m, a] => assembleTwo m a
  | _ => none

/-- The words of one line in a state. -/
def AsmLine.words (l : AsmLine) (s : State) : List Word :=
  match l with
  | .blank => []
  | .word w => [w]
  | .pseudo p => (expand p s).map encode

end Sys2Proof.Machine
end

