-- ==== Sys2Proof/Tests/Slice0.lean ====
section
/-! SUPPORT. The model's own tests: the checks of WellFormed refuse ill-formed terms, words written out from the spec's
encoding decode to their operations, the single-step vectors of spec/95_test_vectors.md (the name in each docstring),
and for every statement a concrete input that meets its hypotheses. Expected values are the spec's, not the model's. -/

namespace Sys2Proof.Tests

open Sys2Proof Sys2Proof.Machine

/-! ### Small machines -/

/-- The configuration DEF of 95_test_vectors.md with numbers for the OPEN parameters. -/
def defCfg : Cfg :=
  { Cfg.standard with fSrc := 8000000, clkDivCfg := 3, clkDivReset := 5, adcRef := 1, adcCh := 2, adcPs := 6, wdtPorEn := true }

/-- DEF-U of 95_test_vectors.md. -/
def defCfgU : Cfg := { defCfg with cmpBuffered := false }

/-- T1 of 95_test_vectors.md. -/
def smallCfg : Cfg := { defCfg with pwmTop := 4, pwmLow := 1, pwmCenter := 2, pwmHigh := 3 }

/-- T1-U of 95_test_vectors.md. -/
def smallCfgU : Cfg := { smallCfg with cmpBuffered := false }

/-- A launch state with an open switch. -/
def launched (c : Cfg) : State := State.launch c 0 .openContact

/-- A launch state brought to a phase of the main context. -/
def atMain (c : Cfg) (p : Phase) : State := { launched c with mpc := p }

/-- A state with every unit set up, as the loop finds it. -/
def running (c : Cfg) : State :=
  { launched c with
    mpc := .read, gie := true, rcf := 0, wdtEn := false
    tmode := 1, tcom := 1, tcs := 1, toc := true, ttop := c.pwmTop
    tcmp := centerByte c, tcmpa := centerByte c, clkdiv := c.clkDivCfg, aref := c.adcRef, ach := c.adcCh, aps := c.adcPs
    alar := true, aen := true, arun := true, aate := true, aie := true, gdir := 1, gpue := 2 }

/-- What a field holds in the next state, if there is one. -/
def look {α : Type} (r : Result) (f : State → α) : Option α :=
  match r with
  | .next s => some (f s)
  | .fault _ => none
  | .refused _ => none

/-- The answer is the next state `s`. -/
def nextIs (r : Result) (s : State) : Bool :=
  match r with
  | .next t => decide (t = s)
  | .fault _ => false
  | .refused _ => false

theorem eq_of_nextIs {r : Result} {s : State} (h : nextIs r s = true) : r = .next s := by
  cases r with
  | next t => exact congrArg _ (of_decide_eq_true h)
  | fault _ => exact absurd h Bool.false_ne_true
  | refused _ => exact absurd h Bool.false_ne_true

/-- The word has no step. -/
def noStep (r : Result) : Bool :=
  match r with
  | .fault f => decide (f = .noStep)
  | .next _ => false
  | .refused _ => false

/-- The words of the opcode table, arguments 0 (30_encoding.md R112). -/
def tableWords : List Nat :=
  [0x1000, 0x1100, 0x1200, 0x2000, 0x2100, 0x2200, 0x2300, 0x2400, 0x2500, 0x2600, 0x2700, 0x2800, 0x2900] ++
  [0x3000, 0x3100, 0x3200, 0x3300, 0x3400, 0x3500, 0x3600, 0x3700, 0x3800, 0x4000, 0x4100, 0x4200] ++
  [0x5000, 0x6000, 0x7000, 0x8000, 0x9000, 0x9100, 0x9200]

/-- The operations of the table in its order, arguments 0. -/
def tableInstrs : List Instr :=
  [.suCli, .suClrrc, .suWdoff, .inClk, .inTcnt0, .inTcmp, .inTtop, .inTmode, .inTirq, .inAmux, .inActl, .inGdir, .inGpue] ++
  [.mlSei, .mlSettle, .mlSeed, .mlRead, .mlCenter, .mlMread, .mlSkip, .mlMwrite, .mlRecord, .isEnter, .isCapture, .isReturn] ++
  [.tmTick, .adDone 0, .ioLatch 0, .evSw 0, .rsPor 0, .rsWdt 0, .rsOth 0]

/-! ### Well-formedness (30_encoding.md R117, 00_scope.md R8) -/

theorem test_evSw_arg_refused : Instr.wf 8 (.evSw 2) = false ∧ Instr.wf 8 (.evSw 1) = true := by decide
theorem test_ioLatch_arg_refused :
    Instr.wf 7 (.ioLatch 0x80) = false ∧ Instr.wf 7 (.ioLatch 0x7F) = true ∧ Instr.wf 8 (.ioLatch 0xFF) = true := by decide
theorem test_cfg_wf : [defCfg, defCfgU, smallCfg, smallCfgU, Cfg.standard].all Cfg.wf = true := by decide
theorem test_cfg_low_above_center : Cfg.wf { defCfg with pwmLow := 185 } = false := by decide
theorem test_cfg_center_above_high : Cfg.wf { defCfg with pwmCenter := 247 } = false := by decide
theorem test_cfg_high_above_255 : Cfg.wf { defCfg with pwmHigh := 256 } = false := by decide
theorem test_cfg_high_not_below_top : Cfg.wf { smallCfg with pwmTop := 3 } = false := by decide
theorem test_cfg_top_too_wide : Cfg.wf { defCfg with wT := 11 } = false := by decide
theorem test_cfg_prescale_zero : Cfg.wf { defCfg with pwmPrescale := 0 } = false := by decide
theorem test_cfg_adc_bits : Cfg.wf { defCfg with adcBits := 7 } = false := by decide
theorem test_cfg_pins :
    Cfg.wf { defCfg with nPins := 9 } = false ∧ Cfg.wf { defCfg with nPins := 0 } = false
      ∧ Cfg.wf { defCfg with nPins := 3 } = true := by decide
theorem test_cfg_pins_equal :
    Cfg.wf { defCfg with swPin := 0 } = false ∧ Cfg.wf { defCfg with ainPin := 0 } = false
      ∧ Cfg.wf { defCfg with ainPin := 1 } = false := by decide
theorem test_cfg_pin_out_of_port :
    Cfg.wf { defCfg with pwmPin := 8 } = false ∧ Cfg.wf { defCfg with swPin := 8 } = false
      ∧ Cfg.wf { defCfg with ainPin := 8 } = false := by decide

/-! ### Decoding (30_encoding.md R110-R118, 95_test_vectors.md L2.1) -/

/-- The word of every row of R112 decodes to the row's operation. -/
theorem test_decode_rows : tableWords.map (decodeTableWord 16) = tableInstrs.map some := by decide

/-- The words written out bit by bit: UNIT, OP and ARG of R110. -/
theorem test_decode_bits :
    decode 8 0b0001_0010_00000000#16 = .ok .suWdoff ∧ decode 8 0b0010_1001_00000000#16 = .ok .inGpue ∧
    decode 8 0b0011_0111_00000000#16 = .ok .mlMwrite ∧ decode 8 0b0100_0001_00000000#16 = .ok .isCapture ∧
    decode 8 0b0101_0000_00000000#16 = .ok .tmTick ∧ decode 8 0b0110_0000_11000000#16 = .ok (.adDone 0xC0) ∧
    decode 8 0b0111_0000_00000010#16 = .ok (.ioLatch 2) ∧ decode 8 0b1000_0000_00000001#16 = .ok (.evSw 1) ∧
    decode 8 0b1001_0010_00010000#16 = .ok (.rsOth 0x10) := by decide

/-- D1, D8, D9, D12, D14. -/
theorem test_decode_ok :
    decode 8 0x1000#16 = .ok .suCli ∧ decode 8 0x60FF#16 = .ok (.adDone 0xFF) ∧ decode 8 0x7080#16 = .ok (.ioLatch 0x80) ∧
    decode 8 0x8001#16 = .ok (.evSw 1) ∧ decode 8 0x3400#16 = .ok .mlCenter := by decide

/-- D3-D7, D13, D15, D16, and the first and last reserved pair of every unit (R113). -/
theorem test_decode_reserved :
    [0x1300#16, 0x0000#16, 0xA000#16, 0x2A00#16, 0x3900#16, 0x9300#16, 0x5100#16, 0x4300#16,
     0x1F00#16, 0x2F00#16, 0x3F00#16, 0x4F00#16, 0x5F00#16, 0x6100#16, 0x7100#16, 0x8100#16, 0x8FFF#16, 0x9F00#16,
     0x0FFF#16, 0xFFFF#16].all
      (fun w => decide (decode 8 w = .refuse .reservedWord)) = true := by decide

/-- D2, and the last operation without an argument of every unit. -/
theorem test_decode_nonzero_arg :
    [0x1001#16, 0x1280#16, 0x2001#16, 0x29FF#16, 0x3001#16, 0x3801#16, 0x4001#16, 0x4201#16, 0x5001#16].all
      (fun w => decide (decode 8 w = .refuse .nonzeroArg)) = true := by decide

/-- D10, D11. -/
theorem test_decode_bad_arg :
    decode 7 0x7080#16 = .refuse .badArg ∧ decode 8 0x8002#16 = .refuse .badArg ∧ decode 7 0x707F#16 = .ok (.ioLatch 0x7F) := by
  decide

/-- The encoder writes the words of R112. -/
theorem test_encode_rows : tableInstrs.map encode = tableWords.map (BitVec.ofNat 16) := by decide

theorem test_encode_args :
    encode (.adDone 0xC0) = 0x60C0 ∧ encode (.ioLatch 0xFC) = 0x70FC ∧ encode (.rsWdt 0x55) = 0x9155 := by decide

/-- Every word of the table, placed at reset, is the next step's instruction and has a next state without a mark. -/
theorem test_placed_words_run :
    tableWords.all (fun w => decide
      (look (step (State.reset.withFetchWord 16 w)) (fun s => (s.trace.length, s.fault, s.refused)) = some (0, none, none)))
      = true := by decide

/-! ### Single steps (95_test_vectors.md L2.2-L2.9) -/

/-- S1 -/
theorem test_suCli :
    look (runWord 0x1000 (launched defCfg)) (fun s => (s.mpc, s.gie)) = some (.suClrrc, false) := by decide
/-- S6 -/
theorem test_suCli_not_enabled : noStep (runWord 0x1000 (atMain defCfg .suClrrc)) = true := by decide
/-- S2 -/
theorem test_suClrrc :
    look (runWord 0x1100 { atMain defCfg .suClrrc with rcf := 0b101 }) (fun s => (s.mpc, s.rcf)) = some (.suWdoff, 0) := by
  decide
/-- S3 -/
theorem test_suWdoff :
    look (runWord 0x1200 { atMain defCfg .suWdoff with rcf := 0 }) (fun s => (s.mpc, s.wdtEn, s.wdtTo))
      = some (.inClk, false, 0) := by decide
/-- S4 -/
theorem test_suWdoff_locked :
    look (runWord 0x1200 { atMain defCfg .suWdoff with rcf := 0b100 }) (fun s => (s.mpc, s.wdtEn)) = some (.inClk, true) ∧
    look (runWord 0x1200 { atMain { defCfg with wdtOffNeedsRcfClear := false } .suWdoff with rcf := 0b100 })
      (fun s => (s.mpc, s.wdtEn)) = some (.inClk, false) := by decide
/-- I1 -/
theorem test_inClk :
    look (runWord 0x2000 (atMain defCfg .inClk)) (fun s => (s.mpc, s.clkdiv)) = some (.inTcnt0, 3) := by decide
/-- I2, from a counter that is not 0 -/
theorem test_inTcnt0 :
    look (runWord 0x2100 { atMain defCfg .inTcnt0 with tcnt := 9 }) (fun s => (s.mpc, s.tcnt)) = some (.inTcmp, 0) := by
  decide
/-- I3 -/
theorem test_inTcmp :
    look (runWord 0x2200 (atMain defCfg .inTcmp)) (fun s => (s.mpc, s.tcmp, s.tcmpa)) = some (.inTtop, 184, 184) := by decide
/-- I4 -/
theorem test_inTtop :
    look (runWord 0x2300 (atMain defCfg .inTtop)) (fun s => (s.mpc, s.ttop)) = some (.inTmode, 2499) := by decide
/-- I5 -/
theorem test_inTmode :
    look (runWord 0x2400 (atMain defCfg .inTmode)) (fun s => (s.mpc, s.tmode, s.tcom, s.tcs, s.toc))
      = some (.inTirq, 1, 1, 1, true) := by decide
/-- I6 -/
theorem test_inTirq :
    look (runWord 0x2500 { atMain defCfg .inTirq with tie := 3 }) (fun s => (s.mpc, s.tie)) = some (.inAmux, 0) := by decide
/-- I7 -/
theorem test_inAmux :
    look (runWord 0x2600 (atMain defCfg .inAmux)) (fun s => (s.mpc, s.aref, s.ach, s.alar)) = some (.inActl, 1, 2, true) := by
  decide
/-- I8 -/
theorem test_inActl :
    look (runWord 0x2700 (atMain defCfg .inActl)) (fun s => (s.mpc, s.aps, s.aen && s.aate && s.aie && s.arun, s.aif))
      = some (.inGdir, 6, true, false) := by decide
/-- I9 -/
theorem test_inGdir :
    look (runWord 0x2800 (atMain defCfg .inGdir)) (fun s => (s.mpc, s.gdir)) = some (.inGpue, 1) := by decide
/-- I10 -/
theorem test_inGpue :
    look (runWord 0x2900 { atMain defCfg .inGpue with gout := 0xFF }) (fun s => (s.mpc, s.gpue, s.gout))
      = some (.sei, 2, 0) := by decide
/-- I11 -/
theorem test_mlSei :
    look (runWord 0x3000 { running defCfg with mpc := .sei, gie := false, aif := true })
      (fun s => (s.mpc, s.gie, enabled .isEnter s)) = some (.settle, true, true) := by decide
/-- T1 -/
theorem test_tmTick_counts :
    look (runWord 0x5000 (running defCfg)) (fun s => (s.tcnt, s.toc)) = some (1, true) ∧
    /- T2 -/
    look (runWord 0x5000 { running defCfg with tcnt := 184 }) (fun s => (s.tcnt, s.toc)) = some (185, false) ∧
    /- T3 -/
    look (runWord 0x5000 { running defCfg with tcnt := 2499, tcmp := 215, toc := false }) (fun s => (s.tcnt, s.tcmpa, s.toc))
      = some (0, 215, true) ∧
    /- T13 -/
    noStep (runWord 0x5000 { running defCfg with tcs := 0 }) = true := by decide
/-- T14, T15 -/
theorem test_tmTick_faults :
    look (runWord 0x5000 { running defCfg with tmode := 0 }) (fun s => s.fault) = some (some .timerModeUnmodelled) ∧
    look (runWord 0x5000 { running defCfg with tmode := 3 }) (fun s => s.fault) = some (some .timerFieldReserved) := by decide
/-- A1 -/
theorem test_adDone :
    look (runWord 0x6080 (running defCfg)) (fun s => (s.aresh, s.aif, s.arun)) = some (0x80, true, true) := by decide
/-- A2, A3 -/
theorem test_adDone_single :
    look (runWord 0x6080 { running defCfg with aate := false }) (fun s => (s.aresh, s.aif, s.arun)) = some (0x80, true, false) ∧
    noStep (runWord 0x6000 { running defCfg with aen := false }) = true := by decide
/-- A5 -/
theorem test_isEnter :
    look (runWord 0x4000 { running defCfg with aif := true, mpc := .mwrite }) (fun s => (s.ctx, s.ipc, s.gie, s.aif, s.mpc))
      = some (.isr, .capture, false, false, .mwrite) := by decide
/-- A6, A11 -/
theorem test_isEnter_not_enabled :
    noStep (runWord 0x4000 { running defCfg with aif := true, gie := false }) = true ∧
    noStep (runWord 0x4000 { running defCfg with aif := true, ctx := .isr }) = true := by decide
/-- A7 -/
theorem test_isCapture :
    look (runWord 0x4100 { running defCfg with ctx := .isr, gie := false, aresh := 0x80, sample := 0x10 })
      (fun s => (s.sample, s.ipc)) = some (0x80, .ret) := by decide
/-- A8 -/
theorem test_isCapture_fault :
    look (runWord 0x4100 { running defCfg with ctx := .isr, alar := false }) (fun s => s.fault)
      = some (some .adcAlignmentUnmodelled) := by decide
/-- A9 -/
theorem test_isReturn :
    look (runWord 0x4200 { running defCfg with ctx := .isr, ipc := .ret, gie := false }) (fun s => (s.ctx, s.gie))
      = some (.main, true) := by decide
/-- G1, G3 -/
theorem test_ioLatch :
    look (runWord 0x7000 (running defCfg)) (fun s => s.gpin) = some 0x03 ∧
    look (runWord 0x70FC (running defCfg)) (fun s => s.gpin) = some 0xFF := by decide
/-- G2, G4, G5, G7 -/
theorem test_ioLatch_switch :
    look (runWord 0x7000 { running defCfg with swc := .closedContact, toc := false }) (fun s => s.gpin) = some 0x00 ∧
    look (runWord 0x7002 (launched defCfg)) (fun s => s.gpin) = some 0x02 ∧
    look (runWord 0x70FF { launched defCfg with swc := .closedContact }) (fun s => s.gpin) = some 0xFD ∧
    look (runWord 0x7000 { running defCfg with tcom := 0 }) (fun s => s.gpin.getLsbD 0) = some false := by decide
/-- G6 -/
theorem test_evSw :
    look (runWord 0x8000 { running defCfg with gpin := 3 }) (fun s => (s.swc, s.gpin)) = some (.closedContact, 3) ∧
    look (runWord 0x8001 { running defCfg with swc := .closedContact }) (fun s => s.swc) = some .openContact := by decide
/-- M1 -/
theorem test_mlSettle : look (runWord 0x3100 (atMain defCfg .settle)) (fun s => s.mpc) = some .seed := by decide
/-- M2 -/
theorem test_mlSeed :
    look (runWord 0x3200 { atMain defCfg .seed with prev := true }) (fun s => (s.prev, s.mpc)) = some (false, .read) := by
  decide
/-- M3 -/
theorem test_mlRead :
    look (runWord 0x3300 { running defCfg with gpin := 3 }) (fun s => (s.sw, s.mpc)) = some (true, .decide) := by decide
/-- M11 -/
theorem test_mlRead_not_enabled : noStep (runWord 0x3300 { running defCfg with ctx := .isr }) = true := by decide
/-- M4 -/
theorem test_mlCenter :
    look (runWord 0x3400 { running defCfg with mpc := .decide, sw := true, tcmp := 215, tcmpa := 215 })
      (fun s => (s.tcmp, s.tcmpa, s.mpc)) = some (184, 215, .record) := by decide
/-- M4u -/
theorem test_mlCenter_unbuffered :
    look (runWord 0x3400 { running defCfgU with mpc := .decide, sw := true, tcmp := 215, tcmpa := 215 })
      (fun s => (s.tcmp, s.tcmpa)) = some (184, 184) := by decide
/-- M6, first word -/
theorem test_mlMread :
    look (runWord 0x3500 { running defCfg with mpc := .decide, sample := 0xFF }) (fun s => (s.t, s.mpc))
      = some (0xFF, .mwrite) := by decide
/-- M5 -/
theorem test_mlSkip :
    look (runWord 0x3600 { running defCfg with mpc := .decide, sw := true, prev := true, tcmp := 215 })
      (fun s => (s.mpc, s.tcmp)) = some (.record, 215) := by decide
/-- M9 -/
theorem test_mlSkip_not_enabled :
    noStep (runWord 0x3600 { running defCfg with mpc := .decide }) = true ∧
    noStep (runWord 0x3400 { running defCfg with mpc := .decide }) = true := by decide
/-- M6, second word -/
theorem test_mlMwrite :
    look (runWord 0x3700 { running defCfg with mpc := .mwrite, t := 0xFF }) (fun s => (s.tcmp, s.tcmpa, s.mpc))
      = some (246, 184, .record) := by decide
/-- T10, first word: the scaled sample 255 of T1 is 3, held back by the buffer -/
theorem test_mlMwrite_small :
    look (runWord 0x3700 { running smallCfg with mpc := .mwrite, t := 0xFF }) (fun s => (s.tcmp, s.tcmpa)) = some (3, 2) := by
  decide
/-- M10 -/
theorem test_mlRecord :
    look (runWord 0x3800 { running defCfg with mpc := .record, prev := true }) (fun s => (s.prev, s.mpc))
      = some (false, .read) := by decide
/-- R1, R2 -/
theorem test_rsPor :
    look (runWord 0x9042 (running defCfg)) (fun s => (s.sample, s.rcf, s.wdtEn, s.wdtTo)) = some (0x42, 0b001, true, 0) ∧
    look (runWord 0x9000 (running { defCfg with wdtPorEn := false })) (fun s => (s.rcf, s.wdtEn, s.tcmp, s.clkdiv))
      = some (0b001, false, 0, 5) := by decide
/-- R3 -/
theorem test_rsWdt :
    look (runWord 0x9100 (launched defCfg)) (fun s => (s.rcf, s.wdtEn, s.wdtTo)) = some (0b101, true, 0) := by decide
/-- R4 -/
theorem test_rsWdt_not_enabled : noStep (runWord 0x9100 (running defCfg)) = true := by decide
/-- R5 -/
theorem test_rsOth :
    look (runWord 0x9210 { running defCfg with mpc := .record, swc := .closedContact })
      (fun s => (s.sample, s.rcf, s.wdtEn, s.swc)) = some (0x10, 0b010, false, .closedContact) := by decide
/-- R6, R7 -/
theorem test_rsOth_abandons_the_handler :
    look (runWord 0x9200 { launched defCfg with rcf := 0b100 }) (fun s => (s.rcf, s.wdtEn)) = some (0b110, true) ∧
    look (runWord 0x9200 { running defCfg with ctx := .isr, ipc := .ret, gie := false, aif := true })
      (fun s => (s.ctx, s.mpc, s.gie, s.aif)) = some (.main, .suCli, false, false) := by decide

/-- Values of the table of L2.7, the first, last and middle ones, and T1's. -/
theorem test_scale :
    [(0 : Byte), 1, 2, 3, 29, 127, 128, 254, 255].map (scale defCfg) = [123, 123, 123, 124, 136, 184, 184, 245, 246] ∧
    [(0 : Byte), 127, 128, 254, 255].map (scale smallCfg) = [1, 1, 2, 2, 3] := by decide

/-! ### Assembly lines (30_encoding.md R119, R120) -/

theorem test_assemble_words :
    assembleLine ['a', 'd', '.', 'd', 'o', 'n', 'e', ' ', '0', 'x', 'C', '0', ' ', ';', 'x'] = some (.word 0x60C0) ∧
    assembleLine ['e', 'v', '.', 's', 'w', ' ', 'o', 'p', 'e', 'n'] = some (.word 0x8001) ∧
    assembleLine ['i', 'o', '.', 'l', 'a', 't', 'c', 'h'] = some (.word 0x7000) ∧
    assembleLine ['r', 's', '.', 'w', 'd', 't', ' ', '8', '5'] = some (.word 0x9155) ∧
    assembleLine ['0', 'x', 'A', '0', '0', '0'] = some (.word 0xA000) := by decide

theorem test_assemble_pseudo :
    assembleLine ['a', 'd', '.', 's', 'a', 'm', 'p', 'l', 'e', ' ', '7'] = some (.pseudo (.adSample 7)) ∧
    assembleLine ['m', 'l', '.', 'r', 'e', 'a', 'd', ' ', '1'] = none ∧
    assembleLine ['a', 'd', '.', 'd', 'o', 'n', 'e', ' ', '2', '5', '6'] = none ∧
    assembleLine [';', ' ', 'x'] = some .blank := by decide

theorem test_boot_words :
    boot.map encode = [0x1000, 0x1100, 0x1200, 0x2000, 0x2100, 0x2200, 0x2300, 0x2400, 0x2500, 0x2600, 0x2700, 0x2800,
      0x2900, 0x3000, 0x3100, 0x3200] := by decide

/-! ### Reachable states of the small machines -/

/-- The state after a trace, or the start where a word has no step. -/
def stateAfter (is : List Instr) (s : State) : State :=
  match takeWords is s with
  | .next s' => s'
  | .fault _ => s
  | .refused _ => s

theorem reachable_stateAfter {is : List Instr} {s : State} (hs : Reachable s)
    (hw : is.all (fun i => i.wf s.cfg.nPins) = true) : Reachable (stateAfter is s) := by
  unfold stateAfter
  split
  · next h => exact reachable_takeWords hs (fun i hi => List.all_eq_true.mp hw i hi) h
  · exact hs
  · exact hs

/-- A launch state followed by some words. -/
def reach (c : Cfg) (k : Contact) (is : List Instr) : State := stateAfter is (State.launch c 0x10 k)

theorem isLaunch_launch {c : Cfg} (hc : c.wf = true) (v : Byte) (k : Contact) : IsLaunch (State.launch c v k) := ⟨hc, rfl⟩

theorem reachable_reach {c : Cfg} (hc : c.wf = true) (k : Contact) {is : List Instr}
    (hw : is.all (fun i => i.wf c.nPins) = true) : Reachable (reach c k is) :=
  reachable_stateAfter (.launch (isLaunch_launch hc _ _)) hw

/-- The first words of the boot order. -/
def bootTo (n : Nat) : List Instr := boot.take n

/-! ### Inputs that meet the hypotheses of the statements, one theorem each, in their order -/

theorem witness_DecodeOfEncodeIsTheInstruction :
    Instr.wf 7 (.ioLatch 0x7F) = true ∧ Instr.wf 8 (.evSw 1) = true ∧ Instr.wf 8 (.rsOth 0xFF) = true := by decide

theorem witness_DecodedWordIsTheInstructionsWord : decode 7 0x707F = .ok (.ioLatch 0x7F) := by decide

theorem witness_ReservedWordsRefuse :
    let s := { launched defCfg with trace := [0x5100, 0x1000] }
    s.fault = none ∧ s.refused = none ∧ s.cfg.wf = true ∧ decode s.cfg.nPins 0x5100 = .refuse .reservedWord := by decide

theorem witness_IllegalArgumentsRefuse :
    let s := launched { defCfg with nPins := 7 }
    s.fault = none ∧ s.refused = none ∧ s.cfg.wf = true ∧ decode s.cfg.nPins 0x7080 = .refuse .badArg ∧
      decode s.cfg.nPins 0x8002 = .refuse .badArg ∧ decode s.cfg.nPins 0x5001 = .refuse .nonzeroArg := by decide

theorem witness_StepRunsTheDecodedInstruction :
    let s := { launched defCfg with trace := [encode (.ioLatch 0x80), 0x1000] }
    s.fault = none ∧ s.refused = none ∧ s.cfg.wf = true ∧ Instr.wf s.cfg.nPins (.ioLatch 0x80) = true ∧
      s.trace = encode (.ioLatch 0x80) :: [0x1000] := by decide

theorem witness_PlacedWordRuns :
    let s := launched defCfg
    s.fault = none ∧ s.refused = none ∧ s.cfg.wf = true ∧
      (tableInstrs.all (fun i => i.wf s.cfg.nPins)) = true ∧ enabled .suCli s = true ∧ enabled .mlRead s = false := by decide

/-- Each clause, and the trace whose last word sets a mark: it has no end state. -/
theorem witness_RunOfATraceTakesItsOperationsInTurn :
    (let s := { launched smallCfg with trace := [0x1000, 0x7002, 0x1100] }
     let is : List Instr := [.suCli, .ioLatch 2]
     s.cfg.wf = true ∧ is.all (fun i => i.wf s.cfg.nPins) = true ∧ s.trace = is.map encode ++ [0x1100]) ∧
    look (runWords [0x1000, 0x7002] (launched smallCfg)) (fun e => (e.mpc, e.trace)) = some (.suClrrc, []) ∧
    (look (runTrace [.suCli] (launched smallCfg)) (fun m => enabled .mlRead m) = some false ∧
      noStep (runTrace [.suCli, .mlRead, .suClrrc] (launched smallCfg)) = true) ∧
    (let s := { running smallCfg with tmode := 0 }
     look (takeWords [.tmTick] s) (fun e => e.fault) = some (some .timerModeUnmodelled) ∧
       look (runTrace [.tmTick] s) (fun e => e.fault) = none) := by decide

/-- P5: the refused word sets its mark after the latch, the word after it is never taken, and the trace has no end state. -/
theorem test_p5_refused_trace :
    look (runSteps 2 { running defCfg with swc := .openContact, trace := [0x7000, 0xA000, 0x3300] })
      (fun e => (e.gpin, e.refused, e.mpc)) = some (3, some .reservedWord, .read) ∧
    look (runWords [0x7000, 0xA000] { running defCfg with swc := .openContact }) (fun e => e.mpc) = none ∧
    look (runWords [0x7000, 0xA000, 0x3300] { running defCfg with swc := .openContact }) (fun e => e.mpc) = none := by decide

theorem witness_EmptyTraceTakesAnEnabledWord :
    let s := launched defCfg
    s.fault = none ∧ s.refused = none ∧ s.cfg.wf = true ∧ s.trace = [] := by decide

theorem witness_EveryEnabledWordMayBeNext :
    let s := launched { defCfg with nPins := 7 }
    s.cfg.wf = true ∧ Instr.wf s.cfg.nPins (.ioLatch 0x7F) = true ∧ enabled (.ioLatch 0x7F) s = true := by decide

theorem witness_MarkedStatesHaveNoStep :
    (State.raise (launched defCfg) .timerFieldReserved).fault = some .timerFieldReserved ∧
    (State.refuse (launched defCfg) .badArg).fault = none ∧ (State.refuse (launched defCfg) .badArg).refused = some .badArg ∧
    look (takeWord .suCli (launched defCfg)) (fun s => s.mpc) = some .suClrrc := by decide

theorem witness_IllFormedConfigurationsAreRefused :
    Cfg.wf { defCfg with nPins := 9 } = false ∧ IsLaunch (launched defCfg) ∧ (launched defCfg).cfg = defCfg :=
  ⟨by decide, isLaunch_launch (by decide) _ _, rfl⟩

/-- Every instruction's guard holds somewhere, and there it has a next state. -/
theorem witness_WordsStepExactlyWhereEnabled :
    tableInstrs.all (fun i => enabled i (enableFor i (launched defCfg))
      && decide (look (exec i (enableFor i (launched defCfg))) (fun _ => true) = some true)) = true := by decide

theorem witness_StartupWordsDoTheirWrites :
    (atMain defCfg .suCli).ctx = .main ∧ (atMain defCfg .suCli).mpc = .suCli ∧
    (atMain defCfg .suClrrc).ctx = .main ∧ (atMain defCfg .suClrrc).mpc = .suClrrc ∧
    (let s := { atMain defCfg .suWdoff with rcf := 0b100 }
     s.ctx = .main ∧ s.mpc = .suWdoff ∧ s.cfg.wdtOffNeedsRcfClear = true ∧ s.rcf.getLsbD 2 = true) ∧
    (let s := { atMain defCfg .suWdoff with rcf := 0b011 }
     s.ctx = .main ∧ s.mpc = .suWdoff ∧ ¬ (s.cfg.wdtOffNeedsRcfClear = true ∧ s.rcf.getLsbD 2 = true)) := by decide

theorem witness_TimerInitialiserWordsDoTheirWrites :
    [Phase.inClk, .inTcnt0, .inTcmp, .inTtop, .inTmode, .inTirq].all
      (fun p => decide ((atMain defCfg p).ctx = .main) && decide ((atMain defCfg p).mpc = p)) = true ∧
    (¬ ((atMain defCfg .inTcmp).cfg.cmpBuffered = true ∧ (atMain defCfg .inTcmp).tmode = 1)) ∧
    (let s := { running defCfg with mpc := .inTcmp }
     s.ctx = .main ∧ s.mpc = .inTcmp ∧ s.cfg.cmpBuffered = true ∧ s.tmode = 1) := by decide

theorem witness_AdcAndPinInitialiserWordsDoTheirWrites :
    [Phase.inAmux, .inActl, .inGdir, .inGpue, .sei].all
      (fun p => decide ((atMain defCfg p).ctx = .main) && decide ((atMain defCfg p).mpc = p)) = true := by decide

theorem witness_CompareWritesGoThroughWriteCmp :
    ((running defCfg).cfg.cmpBuffered = true ∧ (running defCfg).tmode = 1) ∧
    ¬ ((running defCfgU).cfg.cmpBuffered = true ∧ (running defCfgU).tmode = 1) ∧
    look (exec .inTcmp (atMain defCfg .inTcmp)) (fun s => s.tcmp) = some 184 ∧
    look (exec .mlCenter { running defCfg with mpc := .decide, sw := true, tcmp := 215 }) (fun s => s.tcmp) = some 184 ∧
    look (exec .mlMwrite { running defCfg with mpc := .mwrite, t := 0 }) (fun s => s.tcmp) = some 123 := by decide

/-- Every clause: the three reserved fields at their least reserved value, a mode other than PWM, the period's end with
and without buffering (and the wrap of a counter above the top), the match, and a plain count. -/
theorem witness_TickCountsAndDrivesTheOutput :
    (running smallCfg).tcs ≠ 0 ∧
    (2 ≤ ({ running smallCfg with tmode := 2 } : State).tmode.toNat ∧ 2 ≤ ({ running smallCfg with tcom := 2 } : State).tcom.toNat
      ∧ 2 ≤ ({ running smallCfg with tcs := 2 } : State).tcs.toNat) ∧
    ¬ (2 ≤ (running smallCfg).tmode.toNat ∨ 2 ≤ (running smallCfg).tcom.toNat ∨ 2 ≤ (running smallCfg).tcs.toNat) ∧
    ({ running smallCfg with tmode := 0 } : State).tmode ≠ 1 ∧ (running smallCfg).tmode = 1 ∧
    nextCount { running smallCfg with tcnt := 4 } = 0 ∧ nextCount { running smallCfg with tcnt := 65535 } = 0 ∧
    (running smallCfg).cfg.cmpBuffered = true ∧ (running smallCfgU).cfg.cmpBuffered = false ∧
    nextCount { running smallCfg with tcnt := 2 } = 3 ∧ (running smallCfg).tcmpa.toNat = 2 ∧
    nextCount (running smallCfg) = 1 := by decide

theorem witness_ReservedTimerFieldsFault :
    (2 ≤ ({ running defCfg with tcs := 2 } : State).tcs.toNat) ∧ ({ running defCfg with tcs := 2 } : State).tcs ≠ 0 ∧
    look (exec .tmTick { running defCfg with tcs := 2 }) (fun s => s.fault) = some (some .timerFieldReserved) ∧
    look (exec .inTmode (atMain defCfg .inTmode)) (fun s => s.tcs) = some 1 ∧
    ¬ (2 ≤ (atMain defCfg .inTmode).tmode.toNat ∨ 2 ≤ (atMain defCfg .inTmode).tcom.toNat
      ∨ 2 ≤ (atMain defCfg .inTmode).tcs.toNat) := by decide

theorem witness_ConversionWritesResultAndRaisesTheRequest :
    (running defCfg).aen = true ∧ (running defCfg).arun = true ∧ (running defCfg).aate = true ∧
    (running defCfg).fault = none ∧ (running defCfg).refused = none := by decide

theorem witness_InterruptEntryCaptureAndReturn :
    (let s := { running defCfg with aif := true }
     s.ctx = .main ∧ s.gie = true ∧ s.aie = true ∧ s.aif = true) ∧
    (let s := { running defCfg with ctx := .isr }
     s.ctx = .isr ∧ s.ipc = .capture ∧ s.alar = true) ∧
    (let s := { launched defCfg with ctx := .isr }
     s.ctx = .isr ∧ s.ipc = .capture ∧ s.alar = false) ∧
    (let s := { running defCfg with ctx := .isr, ipc := .ret }
     s.ctx = .isr ∧ s.ipc = .ret) := by decide

theorem witness_LatchSamplesThePadsAndTheSwitchMoves :
    let s := launched { defCfg with nPins := 7 }
    (0x7F#8).toNat < 2 ^ s.cfg.nPins ∧ s.cfg.nPins ≤ 8 ∧ 6 < s.cfg.nPins ∧ ¬ (0x80#8).toNat < 2 ^ s.cfg.nPins ∧
      1 < (2#8).toNat := by decide

/-- The pads at both sides of each bound: `mpc` 11, 12 and 13, the three pins' kinds, both contacts. -/
theorem witness_PadLevels :
    (Reachable (reach smallCfg .openContact (bootTo 13)) ∧ 13 ≤ (reach smallCfg .openContact (bootTo 13)).mpc.code) ∧
    (Reachable (reach smallCfg .openContact (bootTo 11)) ∧ (reach smallCfg .openContact (bootTo 11)).mpc.code ≤ 11) ∧
    (Reachable (reach smallCfg .openContact (bootTo 12)) ∧ (reach smallCfg .openContact (bootTo 12)).mpc.code ≤ 12 ∧
      (reach smallCfg .openContact (bootTo 12)).gdir.getLsbD 1 = false ∧
      ¬ (1 = (reach smallCfg .openContact (bootTo 12)).cfg.swPin ∧
        (reach smallCfg .openContact (bootTo 12)).swc = .closedContact)) ∧
    (smallCfg.pwmPin = 0 ∧ smallCfg.swPin = 1 ∧ smallCfg.nPins = 8) :=
  ⟨⟨reachable_reach (by decide) _ (by decide), by decide⟩, ⟨reachable_reach (by decide) _ (by decide), by decide⟩,
   ⟨reachable_reach (by decide) _ (by decide), by decide⟩, by decide⟩

theorem witness_LoopWordsDoTheirWrites :
    [Phase.settle, .seed, .read, .decide, .mwrite, .record].all
      (fun p => decide ((atMain defCfg p).ctx = .main) && decide ((atMain defCfg p).mpc = p)) = true ∧
    (let s := { atMain defCfg .decide with sw := true }
     s.sw = true ∧ s.prev = false) ∧
    (let s := { atMain defCfg .decide with sw := true, prev := true }
     s.sw = true ∧ s.prev = true) ∧
    (atMain defCfg .decide).sw = false := by decide

theorem witness_ResetWordsGiveTheResetState :
    (launched defCfg).wdtEn = true ∧ (launched defCfg).cfg.wf = true ∧ (launched defCfg).fault = none ∧
      (launched defCfg).refused = none := by decide

theorem witness_ScaleIsTheExactQuotient : defCfg.wf = true ∧ defCfg.pwmLow = 123 ∧ defCfg.pwmHigh = 246 := by decide

/-- The clause of the top value at its bound (a range of 254), the clause of every value, and the default constants. -/
theorem witness_ScaleMapsOntoTheRange :
    let c := { defCfg with pwmLow := 1, pwmHigh := 255 }
    c.wf = true ∧ c.pwmHigh - c.pwmLow < 255 ∧ c.pwmLow < c.pwmHigh ∧ (scale c 255).toNat = c.pwmHigh ∧
      (scale c 254).toNat = 254 ∧ defCfg.wf = true ∧ defCfg.pwmLow = 123 ∧ defCfg.pwmHigh = 246 ∧
      Cfg.wf { defCfg with pwmLow := 0, pwmHigh := 0, pwmCenter := 0 } = true := by decide

/-- A rounding that errs, on a sample whose quotient is no integer, and an exact one. -/
theorem witness_ScaleEqualsTheRoundedQuotient :
    defCfg.wf = true ∧
    |(61 + 189 / 255 + 1 / 256 : ℚ) - (((128#8).toNat * (defCfg.pwmHigh - defCfg.pwmLow) : ℕ) : ℚ) / 255| < 1 / 255 ∧
    ¬ 255 ∣ (128#8).toNat * (defCfg.pwmHigh - defCfg.pwmLow) ∧
    255 ∣ (255#8).toNat * (defCfg.pwmHigh - defCfg.pwmLow) ∧
    (123 : ℚ) = (((255#8).toNat * (defCfg.pwmHigh - defCfg.pwmLow) : ℕ) : ℚ) / 255 := by
  refine ⟨by decide, ?_, by decide, by decide, ?_⟩
  · have h : (128#8).toNat * (defCfg.pwmHigh - defCfg.pwmLow) = 15744 := by decide
    rw [h, abs_lt]
    constructor <;> norm_num
  · have h : (255#8).toNat * (defCfg.pwmHigh - defCfg.pwmLow) = 31365 := by decide
    rw [h]
    norm_num

/-- One change of each kind: a reset word and another word. -/
theorem witness_FieldsChangeOnlyByTheirNamedWords :
    (Instr.rsPor 7).isReset = true ∧ look (exec (.rsPor 7) (running defCfg)) (fun s => s.sample) = some 7 ∧
    Instr.isReset .tmTick = false ∧ look (exec .tmTick (running defCfg)) (fun s => s.tcnt) = some 1 := by decide

theorem witness_FlagsAfterEachOperation :
    look (exec .isEnter { running defCfg with aif := true }) (fun s => (s.gie, s.aif, s.rcf)) = some (false, false, 0) ∧
    look (exec (.rsOth 0) { running defCfg with rcf := 0b100 }) (fun s => s.rcf) = some 0b110 := by decide

/-- A concrete state of the invariant, in the loop. -/
theorem blockInv_running : BlockInv (running smallCfg) := by constructor <;> decide

theorem witness_RegistersPackTheirFields : BlockInv (running smallCfg) ∧ (running smallCfg).actl = 0b11101110 :=
  ⟨blockInv_running, by decide⟩

theorem witness_LaunchStatesMeetTheInvariant : IsLaunch (launched defCfg) := isLaunch_launch (by decide) _ _

theorem witness_EveryStepKeepsTheInvariant :
    BlockInv { running smallCfg with trace := [0x5000] } ∧
    look (step { running smallCfg with trace := [0x5000] }) (fun s => s.tcnt) = some 1 :=
  ⟨by constructor <;> decide, by decide⟩

/-- A booted machine, and one whose interrupt handler is about to capture. -/
def booted : State := reach smallCfg .openContact boot

theorem reachable_booted : Reachable booted := reachable_reach (by decide) _ (by decide)

def inHandler : State := reach smallCfg .openContact (boot ++ [.adDone 9, .isEnter])

theorem reachable_inHandler : Reachable inHandler := reachable_reach (by decide) _ (by decide)

theorem reachable_bootTo (c : Cfg) (hc : c.wf = true) (hn : c.nPins = 8) (k : Contact) (n : Nat) :
    Reachable (reach c k (bootTo n)) := by
  refine reachable_reach hc k (List.all_eq_true.mpr fun i hi => ?_)
  have : boot.all (fun i => i.wf 8) = true := by decide
  rw [hn]
  exact List.all_eq_true.mp this i (List.mem_of_mem_take hi)

theorem witness_ReachableStatesAreUnmarked :
    Reachable booted ∧ Steps booted .mlRead (stateAfter [.mlRead] booted) :=
  ⟨reachable_booted, rfl, rfl, by decide, eq_of_nextIs (by decide)⟩

/-- Both sides of the bound: `mpc` 5 and 6. -/
theorem witness_CompareStaysInTheServoSafeRange :
    (Reachable (reach smallCfg .openContact (bootTo 6)) ∧ 6 ≤ (reach smallCfg .openContact (bootTo 6)).mpc.code) ∧
    (Reachable (reach smallCfg .openContact (bootTo 5)) ∧ (reach smallCfg .openContact (bootTo 5)).mpc.code ≤ 5) :=
  ⟨⟨reachable_bootTo _ (by decide) rfl _ _, by decide⟩, ⟨reachable_bootTo _ (by decide) rfl _ _, by decide⟩⟩

theorem witness_InitialiserPostcondition :
    Reachable (reach defCfg .openContact (bootTo 13)) ∧ (reach defCfg .openContact (bootTo 13)).mpc = .sei :=
  ⟨reachable_bootTo _ (by decide) rfl _ _, by decide⟩

theorem witness_NoInterruptBeforeTheEnable :
    Reachable (reach smallCfg .openContact (bootTo 13)) ∧ (reach smallCfg .openContact (bootTo 13)).mpc.code ≤ 13 ∧
    look (takeWords ([0x11, 0x22].map Instr.adDone) (reach smallCfg .openContact (bootTo 13))) (fun s => (s.aresh, s.aif))
      = some (0x22, true) :=
  ⟨reachable_bootTo _ (by decide) rfl _ _, by decide, by decide⟩

theorem witness_WatchdogStaysOffUntilAReset :
    (Reachable (reach defCfg .openContact (bootTo 2)) ∧ (reach defCfg .openContact (bootTo 2)).ctx = .main ∧
      (reach defCfg .openContact (bootTo 2)).mpc = .suWdoff ∧ (reach defCfg .openContact (bootTo 2)).wdtEn = true) ∧
    (booted.wdtEn = false ∧ [Instr.tmTick, .mlRead].all (fun i => !i.isReset) = true ∧
      look (takeWords [.tmTick, .mlRead] booted) (fun s => s.mpc) = some .decide) :=
  ⟨⟨reachable_bootTo _ (by decide) rfl _ _, by decide⟩, by decide⟩

/-- Both sides of the bound: `mpc` 7 and 8. -/
theorem witness_TimerWritesOnlyItsOwnState :
    (Reachable booted ∧ look (exec .tmTick booted) (fun s => s.tcnt) = some 1) ∧
    (Reachable (reach smallCfg .openContact (bootTo 7)) ∧ (reach smallCfg .openContact (bootTo 7)).mpc.code ≤ 7) ∧
    (Reachable (reach smallCfg .openContact (bootTo 8)) ∧ 8 ≤ (reach smallCfg .openContact (bootTo 8)).mpc.code) :=
  ⟨⟨reachable_booted, by decide⟩, ⟨reachable_bootTo _ (by decide) rfl _ _, by decide⟩,
   ⟨reachable_bootTo _ (by decide) rfl _ _, by decide⟩⟩

theorem witness_BufferedCompareChangesOnlyAtAPeriodStart :
    (let s := { running smallCfg with tcnt := 4, tcmp := 3 }
     s.cfg.cmpBuffered = true ∧ s.tmode = 1 ∧ Instr.isReset .tmTick = false ∧
       look (exec .tmTick s) (fun s => (s.tcmpa, s.fault, s.tcnt)) = some (3, none, 0) ∧ s.tcmpa = 2) ∧
    (Reachable (reach smallCfgU .openContact (bootTo 6)) ∧ (reach smallCfgU .openContact (bootTo 6)).cfg.cmpBuffered = false ∧
      6 ≤ (reach smallCfgU .openContact (bootTo 6)).mpc.code) :=
  ⟨by decide, reachable_bootTo _ (by decide) rfl _ _, by decide⟩

/-- With the number of ticks at its bound, the whole period but one. -/
theorem witness_PeriodHasOnePulseOfTheCompareValue :
    (let s := booted
     s.fault = none ∧ s.refused = none ∧ s.tmode = 1 ∧ s.tcom = 1 ∧ s.tcs = 1 ∧ s.ttop < 2 ^ s.cfg.wT ∧ s.tcnt = 0 ∧
       s.toc = true ∧ 4 ≤ s.ttop) ∧
    (Reachable (reach smallCfg .openContact (bootTo 7)) ∧
      exec .inTmode (reach smallCfg .openContact (bootTo 7)) = .next (reach smallCfg .openContact (bootTo 8))) :=
  ⟨by decide, reachable_bootTo _ (by decide) rfl _ _, eq_of_nextIs (by decide)⟩

theorem witness_OutputIsHighUpToTheCompareValue :
    Reachable (reach smallCfg .openContact (bootTo 8)) ∧ 8 ≤ (reach smallCfg .openContact (bootTo 8)).mpc.code ∧
      (reach smallCfg .openContact (bootTo 8)).cfg.cmpBuffered = true :=
  ⟨reachable_bootTo _ (by decide) rfl _ _, by decide⟩

/-- The start of T11 and T12: a value below the counter, one at it, and an output already low. -/
theorem witness_UnbufferedWriteReshapesThePeriod :
    (let s := { running smallCfgU with tcnt := 1 }
     s.fault = none ∧ s.refused = none ∧ s.cfg.cmpBuffered = false ∧ s.tmode = 1 ∧ s.tcom = 1 ∧ s.tcs = 1 ∧
       s.ttop < 2 ^ s.cfg.wT ∧ s.tcnt + 3 ≤ s.ttop ∧ (0#8).toNat < s.tcnt ∧ s.tcnt ≤ (1#8).toNat ∧ s.toc = true) ∧
    (let s := { running smallCfgU with tcnt := 3, toc := false }
     s.fault = none ∧ s.refused = none ∧ s.cfg.cmpBuffered = false ∧ s.tmode = 1 ∧ s.tcom = 1 ∧ s.tcs = 1 ∧
       s.ttop < 2 ^ s.cfg.wT ∧ s.tcnt + 1 ≤ s.ttop ∧ s.toc = false) := by decide

/-- Both sides of the bound: `mpc` 11 and 12. -/
theorem witness_PwmPinCarriesTheOutputLatch :
    (Reachable (reach smallCfg .openContact (bootTo 11)) ∧ (reach smallCfg .openContact (bootTo 11)).mpc.code ≤ 11) ∧
    (Reachable (reach smallCfg .openContact (bootTo 12)) ∧ 12 ≤ (reach smallCfg .openContact (bootTo 12)).mpc.code) :=
  ⟨⟨reachable_bootTo _ (by decide) rfl _ _, by decide⟩, ⟨reachable_bootTo _ (by decide) rfl _ _, by decide⟩⟩

/-- Both sides of the bound: `mpc` 12 and 13. -/
theorem witness_SwitchLatchesAsCenterOrManual :
    smallCfg.wf = true ∧
    (Reachable (reach smallCfg .closedContact (bootTo 13)) ∧ 13 ≤ (reach smallCfg .closedContact (bootTo 13)).mpc.code ∧
      Steps (reach smallCfg .closedContact (bootTo 13)) (.ioLatch 0xFF)
        (stateAfter [.ioLatch 0xFF] (reach smallCfg .closedContact (bootTo 13)))) ∧
    (Reachable (reach smallCfg .openContact (bootTo 12)) ∧ (reach smallCfg .openContact (bootTo 12)).mpc.code ≤ 12 ∧
      (reach smallCfg .openContact (bootTo 12)).swc = .openContact) :=
  ⟨by decide,
   ⟨reachable_bootTo _ (by decide) rfl _ _, by decide, ⟨by decide, by decide, by decide, eq_of_nextIs (by decide)⟩⟩,
   ⟨reachable_bootTo _ (by decide) rfl _ _, by decide⟩⟩

theorem witness_ExactlyOneDecideWordIsEnabled :
    (let s := { running defCfg with mpc := .decide }
     s.ctx = .main ∧ s.mpc = .decide ∧ s.sw = false) ∧
    (let s := { running defCfg with mpc := .decide, sw := true }
     s.ctx = .main ∧ s.mpc = .decide ∧ s.sw = true ∧ s.prev = false) ∧
    (let s := { running defCfg with mpc := .decide, sw := true, prev := true }
     s.ctx = .main ∧ s.mpc = .decide ∧ s.sw = true ∧ s.prev = true) := by decide

/-- From the end of a MANUAL iteration with the switch opened and latched, an interrupt between, and from the seed. -/
theorem witness_TransitionIntoCenterWritesTheCenter :
    (let s := { running smallCfg with mpc := .record, prev := true }
     let is : List Instr := [.evSw 1, .ioLatch 0, .adDone 9, .mlRecord, .isEnter, .isCapture, .isReturn, .mlRead]
     (s.mpc = .record ∧ s.sw = false) ∧
       look (takeWords is s) (fun u => (u.ctx, u.mpc, u.sw)) = some (.main, .decide, true) ∧
       is.all (fun i => !i.isReset) = true ∧ is.count .mlRead = 1) ∧
    (let s := { running smallCfg with mpc := .seed, gpin := 2 }
     s.mpc = .seed ∧ look (takeWords [.mlSeed, .mlRead] s) (fun u => (u.ctx, u.mpc, u.sw)) = some (.main, .decide, true)) := by
  decide

/-- The reads of a concrete trace, by evaluation. -/
def readsB (b : Bool) : List Instr → State → Bool
  | [], _ => true
  | i :: is, s => (decide (i ≠ .mlRead) || decide (switchState s.cfg s.gpin = b)) &&
      match takeWord i s with
      | .next m => readsB b is m
      | .fault _ => true
      | .refused _ => true

theorem readsOnly_of_readsB {b : Bool} {is : List Instr} {s : State} (h : readsB b is s = true) : ReadsOnly b is s := by
  induction is generalizing s with
  | nil => exact readsOnly_nil b s
  | cons i is ih =>
    rw [readsB, Bool.and_eq_true] at h
    refine readsOnly_cons.mpr ⟨fun e => by simpa [e] using h.1, fun m hm => ih ?_⟩
    simpa [hm] using h.2

/-- Two CENTER iterations and two MANUAL ones, with an interrupt, a tick, a conversion and a latch between the words; and
the states of the back-to-back clause. -/
theorem witness_CenterIsWrittenOnEntryAndManualAlways :
    (let s := { running smallCfg with mpc := .record, gpin := 2, swc := .openContact }
     let is : List Instr := [.mlRecord, .tmTick, .mlRead, .adDone 9, .isEnter, .isCapture, .isReturn, .mlCenter, .ioLatch 0,
       .mlRecord, .mlRead, .tmTick, .mlSkip]
     s.sw = false ∧ is.all (fun i => !i.isReset) = true ∧ look (takeWords is s) (fun e => (e.mpc, e.tcmp)) = some (.record, 2) ∧
       ReadsOnly true is s) ∧
    (let s := { running smallCfg with mpc := .seed, gpin := 2 }
     look (takeWords [.mlSeed, .adDone 9, .mlRead, .mlCenter] s) (fun e => e.mpc) = some .record ∧
       ReadsOnly true [.mlSeed, .adDone 9, .mlRead, .mlCenter] s) ∧
    (let s := { running smallCfg with mpc := .record, sw := true, gpin := 2, tcmp := 3 }
     look (takeWords [.mlRecord, .adDone 9, .mlRead, .mlSkip] s) (fun e => e.tcmp) = some 3 ∧
       ReadsOnly true [.mlRecord, .adDone 9, .mlRead, .mlSkip] s) ∧
    (let s := { running smallCfg with mpc := .seed, sample := 255 }
     let is : List Instr := [.mlSeed, .mlRead, .mlMread, .adDone 0, .isEnter, .isCapture, .isReturn, .mlMwrite, .mlRecord,
       .mlRead, .mlMread]
     look (takeWords is s) (fun e => (e.mpc, e.tcmp, e.t)) = some (.mwrite, 3, 0) ∧ ReadsOnly false is s) ∧
    (let s := { running smallCfg with gpin := 2 }
     s.fault = none ∧ s.refused = none ∧ s.ctx = .main ∧ s.mpc = .read ∧ switchState s.cfg s.gpin = true ∧ s.prev = false) ∧
    (let s := { running smallCfg with gpin := 2, prev := true }
     s.mpc = .read ∧ switchState s.cfg s.gpin = true ∧ s.prev = true) ∧
    (let s := running smallCfg
     s.mpc = .read ∧ switchState s.cfg s.gpin = false) :=
  ⟨⟨by decide, by decide, by decide, readsOnly_of_readsB (by decide)⟩, ⟨by decide, readsOnly_of_readsB (by decide)⟩,
   ⟨by decide, readsOnly_of_readsB (by decide)⟩, ⟨by decide, readsOnly_of_readsB (by decide)⟩, by decide, by decide, by decide⟩

theorem witness_CompareIsCenterUntilTheLoopWrites :
    (exec .inTcmp (atMain smallCfg .inTcmp) = .next (stateAfter [.inTcmp] (atMain smallCfg .inTcmp)) ∧
      look (takeWords [.inTtop, .evSw 0] (stateAfter [.inTcmp] (atMain smallCfg .inTcmp))) (fun s => s.mpc) = some .inTmode) ∧
    (Reachable (reach smallCfg .openContact (bootTo 15)) ∧ (reach smallCfg .openContact (bootTo 15)).mpc = .seed) ∧
    (let u := { running smallCfg with mpc := .decide, sw := true }
     look (exec .mlCenter u) (fun s => s.mpc) = some .record ∧
       look (takeWords [.mlCenter, .tmTick, .adDone 1] u) (fun s => s.tcmp) = some 2) ∧
    (let u := { running smallCfg with mpc := .mwrite, t := 255 }
     look (exec .mlMwrite u) (fun s => s.mpc) = some .record ∧
       look (takeWords [.mlMwrite, .tmTick, .adDone 1] u) (fun s => s.tcmp) = some 3) :=
  ⟨⟨eq_of_nextIs (by decide), by decide⟩, ⟨reachable_bootTo _ (by decide) rfl _ _, by decide⟩, by decide, by decide⟩

/-- A read after a capture, and of what the cell held at the start. -/
theorem witness_SampleReadIsOneWrittenWhole :
    (let s := { running smallCfg with mpc := .decide, ctx := .isr, gie := false, aresh := 0x80, sample := 0x10 }
     look (takeWords [.isCapture, .isReturn, .mlMread] s) (fun u => u.t) = some 0x80) ∧
    (let s := { running smallCfg with mpc := .decide, sample := 0x10 }
     look (takeWords [.mlMread] s) (fun u => u.t) = some 0x10) := by decide

theorem witness_SampleHoldsTheLastCapture :
    let x := { running smallCfg with ctx := .isr, gie := false, aresh := 0x80 }
    x.alar = true ∧ look (takeWords [.isCapture, .adDone 0x20] x) (fun u => u.sample) = some 0x80 ∧
      look (takeWords [.adDone 0x20] x) (fun u => u.sample) = some 0 := by decide

/-- The interrupt of program P4 between the two words. -/
theorem witness_PreemptionDoesNotChangeTheWrittenValue :
    let s := { running defCfg with mpc := .decide, sample := 0x20 }
    look (takeWords [.mlMread, .adDone 0xFF, .isEnter, .isCapture, .isReturn, .mlMwrite] s) (fun f => (f.sample, f.tcmp))
      = some (0xFF, 138) ∧
    [Instr.adDone 0xFF, .isEnter, .isCapture, .isReturn].all (fun i => !i.isReset && !i.isMain) = true := by decide

theorem witness_RapidSwitchingAlternatesTheWrites :
    Reachable booted ∧ booted.ctx = .main ∧ booted.mpc = .read ∧ booted.prev = false :=
  ⟨reachable_booted, by decide⟩

theorem witness_IterationRunsBackToRead :
    booted.fault = none ∧ booted.refused = none ∧ booted.ctx = .main ∧ booted.mpc = .read := by decide

theorem witness_InterruptContextRunsItsThreeSteps :
    (inHandler.ctx = .isr ∧ inHandler.ipc = .capture) ∧
    (let s := { inHandler with ipc := .ret }
     s.ctx = .isr ∧ s.ipc = .ret) ∧
    (let s := { running defCfg with aif := true }
     s.fault = none ∧ s.refused = none ∧ s.ctx = .main ∧ s.gie = true ∧ s.aie = true ∧ s.aif = true ∧ s.alar = true) := by
  decide

theorem witness_InterruptsDoNotNest : Reachable inHandler ∧ inHandler.ctx = .isr ∧ inHandler.ipc = .capture :=
  ⟨reachable_inHandler, by decide⟩

/-- At the bound, `mpc` 14, with an entry as the step. -/
theorem witness_HandlerCannotBeDisabled :
    let s := reach smallCfg .openContact (bootTo 14 ++ [.adDone 9])
    Reachable s ∧ 14 ≤ s.mpc.code ∧ Instr.isReset .isEnter = false ∧ Steps s .isEnter (stateAfter [.isEnter] s) ∧
      s.gie = true ∧ (stateAfter [.isEnter] s).gie = false :=
  ⟨reachable_reach (by decide) _ (by decide), by decide, by decide,
   ⟨by decide, by decide, by decide, eq_of_nextIs (by decide)⟩, by decide⟩

theorem witness_BootReachesTheLoop : IsLaunch (launched smallCfg) := isLaunch_launch (by decide) _ _

/-! ### A fair run: one round of every agent, for ever -/

/-- The words of one round: a conversion and its capture, the latch, a MANUAL iteration, a timer period. -/
def round : List Instr :=
  [.adDone 9, .isEnter, .isCapture, .isReturn, .ioLatch 0, .mlRead, .mlMread, .mlMwrite, .mlRecord,
   .tmTick, .tmTick, .tmTick, .tmTick, .tmTick]

/-- The state each round starts and ends in. -/
def roundStart : State := reach smallCfg .closedContact (boot ++ round)

theorem reachable_roundStart : Reachable roundStart := reachable_reach (by decide) _ (by decide)

def fairState (n : Nat) : State := stateAfter (round.take (n % 14)) roundStart

def fairWord (n : Nat) : Instr := round.getD (n % 14) .tmTick

/-- Every word of the round has its step, and the last one leads back to the start. -/
theorem round_steps : (List.range 14).all (fun r =>
    nextIs (exec (round.getD r .tmTick) (stateAfter (round.take r) roundStart))
      (stateAfter (round.take ((r + 1) % 14)) roundStart)
    && (stateAfter (round.take r) roundStart).fault.isNone && (stateAfter (round.take r) roundStart).refused.isNone
    && (round.getD r .tmTick).wf (stateAfter (round.take r) roundStart).cfg.nPins) = true := by decide

theorem fair_steps (n : Nat) : Steps (fairState n) (fairWord n) (fairState (n + 1)) := by
  have h := List.all_eq_true.mp round_steps (n % 14) (List.mem_range.mpr (Nat.mod_lt n (by decide)))
  simp only [Bool.and_eq_true, Option.isNone_iff_eq_none] at h
  obtain ⟨⟨⟨h1, h2⟩, h3⟩, h4⟩ := h
  have e : (n + 1) % 14 = (n % 14 + 1) % 14 := by omega
  refine ⟨h2, h3, h4, ?_⟩
  unfold fairState
  rw [e]
  exact eq_of_nextIs h1

/-- A word of the round is taken again and again. -/
theorem fair_word (r : Nat) (hr : r < 14) (n : Nat) : ∃ m, n ≤ m ∧ fairWord m = round.getD r .tmTick := by
  refine ⟨14 * n + r, by omega, ?_⟩
  have : (14 * n + r) % 14 = r := by omega
  rw [fairWord, this]

theorem fair_kind (k : StepKind) (n : Nat) : ∃ m, n ≤ m ∧ Instr.kind (fairWord m) = some k := by
  cases k
  case mainStep => exact (fair_word 5 (by decide) n).imp fun m h => ⟨h.1, by rw [h.2]; rfl⟩
  case interruptEntry => exact (fair_word 1 (by decide) n).imp fun m h => ⟨h.1, by rw [h.2]; rfl⟩
  case interruptStep => exact (fair_word 2 (by decide) n).imp fun m h => ⟨h.1, by rw [h.2]; rfl⟩
  case timerTick => exact (fair_word 9 (by decide) n).imp fun m h => ⟨h.1, by rw [h.2]; rfl⟩
  case conversion => exact (fair_word 0 (by decide) n).imp fun m h => ⟨h.1, by rw [h.2]; rfl⟩
  case latch => exact (fair_word 4 (by decide) n).imp fun m h => ⟨h.1, by rw [h.2]; rfl⟩

theorem fairRun_round : FairRun fairState fairWord :=
  ⟨⟨fair_steps⟩, fun k n _ => fair_kind k n, fun _ n => fair_kind .mainStep n⟩

theorem fair_no_reset (n : Nat) : (fairWord n).isReset = false := by
  have : (List.range 14).all (fun r => !(round.getD r .tmTick).isReset) = true := by decide
  have h := List.all_eq_true.mp this (n % 14) (List.mem_range.mpr (Nat.mod_lt n (by decide)))
  simpa [fairWord] using h

theorem fair_contact (n : Nat) : (fairState n).swc = .closedContact := by
  have : (List.range 14).all (fun r => decide ((stateAfter (round.take r) roundStart).swc = .closedContact)) = true := by
    decide
  have h := List.all_eq_true.mp this (n % 14) (List.mem_range.mpr (Nat.mod_lt n (by decide)))
  exact of_decide_eq_true h

theorem witness_EveryConversionIsCapturedOrSuperseded :
    FairRun fairState fairWord ∧ Reachable (fairState 0) ∧ (∀ n, (fairWord n).isReset = false) ∧
      14 ≤ (fairState 0).mpc.code ∧ fairWord 0 = .adDone 9 :=
  ⟨fairRun_round, reachable_roundStart, fair_no_reset, by decide, by decide⟩

theorem witness_LoopRunsForeverAndReadsASettledSwitch :
    FairRun fairState fairWord ∧ Reachable (fairState 0) ∧ (∀ n, (fairWord n).isReset = false) ∧
      (∃ n, 14 ≤ (fairState n).mpc.code) ∧ (∃ n, ∀ m, n ≤ m → (fairState m).swc = .closedContact) :=
  ⟨fairRun_round, reachable_roundStart, fair_no_reset, ⟨0, by decide⟩, ⟨0, fun m _ => fair_contact m⟩⟩

end Sys2Proof.Tests
end

section
/-! PROOF. The scope (spec/00_scope.md): which configurations have a meaning (R8), and where each word has a step
(R11). -/

namespace Sys2Proof

/-- 00_scope.md R8, clause by clause. -/
theorem Cfg.wf_iff (c : Cfg) :
    c.wf = true ↔
      (c.pwmLow ≤ c.pwmCenter ∧ c.pwmCenter ≤ c.pwmHigh ∧ c.pwmHigh ≤ 255) ∧
      (c.pwmHigh < c.pwmTop ∧ c.pwmTop ≤ 2 ^ c.wT - 1) ∧ 1 ≤ c.pwmPrescale ∧ 8 ≤ c.adcBits ∧
      (1 ≤ c.nPins ∧ c.nPins ≤ 8) ∧ (c.pwmPin ≠ c.swPin ∧ c.pwmPin ≠ c.ainPin ∧ c.swPin ≠ c.ainPin) ∧
      (c.pwmPin < c.nPins ∧ c.swPin < c.nPins ∧ c.ainPin < c.nPins) := by
  simp only [Cfg.wf, Bool.and_eq_true, decide_eq_true_eq, and_assoc]

end Sys2Proof

namespace Sys2Proof.Machine

/-! ### Configurations and launch states -/

theorem whenUnmarked_of_refused {s : State} {k : Result} {r : RefusalReason} (hf : s.fault = none)
    (hr : s.refused = some r) : whenUnmarked s k = .refused (.refusalMarked r) := by
  simp [whenUnmarked, hf, hr]

theorem step_of_refused {s : State} {r : RefusalReason} (hf : s.fault = none) (hr : s.refused = some r) :
    step s = .refused (.refusalMarked r) :=
  whenUnmarked_of_refused hf hr

@[simp] theorem launch_fault (c : Cfg) (v : Byte) (k : Contact) : (State.launch c v k).fault = none := rfl

theorem launch_refused_of_not_wf {c : Cfg} (hc : c.wf = false) (v : Byte) (k : Contact) :
    (State.launch c v k).refused = some .illFormedConfig := by
  simp [State.launch, hc]

theorem IsLaunch.cfg_wf {s : State} (h : IsLaunch s) : s.cfg.wf = true := h.1

/-! ### The guards (30_encoding.md R112) -/

theorem State.atPhase_iff (s : State) (p : Phase) : s.atPhase p = true ↔ s.ctx = .main ∧ s.mpc = p := by
  simp [State.atPhase]

theorem State.atHandler_iff (s : State) (p : HandlerPhase) :
    s.atHandler p = true ↔ s.ctx = .isr ∧ s.ipc = p := by
  simp [State.atHandler]

theorem State.requestOpen_iff (s : State) :
    s.requestOpen = true ↔ s.gie = true ∧ s.aie = true ∧ s.aif = true := by
  simp [State.requestOpen, and_assoc]

theorem enabled_mlCenter_iff (s : State) :
    enabled .mlCenter s = true ↔ s.ctx = .main ∧ s.mpc = .decide ∧ s.sw = true ∧ s.prev = false := by
  simp [enabled, State.atPhase_iff, and_assoc]

theorem enabled_mlMread_iff (s : State) :
    enabled .mlMread s = true ↔ s.ctx = .main ∧ s.mpc = .decide ∧ s.sw = false := by
  simp [enabled, State.atPhase_iff, and_assoc]

theorem enabled_mlSkip_iff (s : State) :
    enabled .mlSkip s = true ↔ s.ctx = .main ∧ s.mpc = .decide ∧ s.sw = true ∧ s.prev = true := by
  simp [enabled, State.atPhase_iff, and_assoc]

theorem enabled_isEnter_iff (s : State) :
    enabled .isEnter s = true ↔ s.ctx = .main ∧ s.gie = true ∧ s.aie = true ∧ s.aif = true := by
  simp [enabled, State.requestOpen_iff]

theorem enabled_tmTick_iff (s : State) : enabled .tmTick s = true ↔ s.tcs ≠ 0 := decide_eq_true_iff

theorem enabled_adDone_iff (vv : Byte) (s : State) :
    enabled (.adDone vv) s = true ↔ s.aen = true ∧ s.arun = true := by
  simp [enabled]

/-- 00_scope.md R11, for any way `g` to say the guard: the word has a next state where `g` holds, and no step elsewhere. -/
theorem exec_next_or_noStep {i : Instr} {s : State} {g : Prop} (hg : enabled i s = true ↔ g) :
    (g → ∃ s', exec i s = .next s') ∧ (¬ g → exec i s = .fault .noStep) :=
  ⟨fun h => ⟨after i s, exec_of_enabled (hg.mpr h)⟩,
   fun h => exec_of_disabled (Bool.eq_false_iff.mpr (mt hg.mp h))⟩

/-! ### The obligations -/

/-- Settles O12: R8 is `Cfg.wf_iff`, and the mark `State.launch` sets for any other configuration stops the step. -/
theorem illFormedConfigurationsAreRefused : Obligations.IllFormedConfigurationsAreRefused := by
  intro c
  refine ⟨?_, fun hc v k => ?_, ?_⟩
  · simp only [c.wf_iff, Nat.zero_le, true_and]
  · have hr := launch_refused_of_not_wf hc v k
    exact ⟨hr, step_of_refused (launch_fault c v k) hr⟩
  · rintro s rfl hs
    exact hs.cfg_wf

/-- Settles O13: every word is a guarded change of state, so what is left is that `enabled` is the guard of each row. -/
theorem wordsStepExactlyWhereEnabled : Obligations.WordsStepExactlyWhereEnabled := by
  intro i s
  refine exec_next_or_noStep ?_
  cases i with
  | suCli | suClrrc | suWdoff | inClk | inTcnt0 | inTcmp | inTtop | inTmode | inTirq | inAmux | inActl | inGdir
  | inGpue | mlSei | mlSettle | mlSeed | mlRead | mlMwrite | mlRecord => exact s.atPhase_iff _
  | mlCenter => exact enabled_mlCenter_iff s
  | mlMread => exact enabled_mlMread_iff s
  | mlSkip => exact enabled_mlSkip_iff s
  | isEnter => exact enabled_isEnter_iff s
  | isCapture | isReturn => exact s.atHandler_iff _
  | tmTick => exact enabled_tmTick_iff s
  | adDone vv => exact enabled_adDone_iff vv s
  | rsWdt v => exact Iff.rfl
  | ioLatch a | evSw a | rsPor a | rsOth a => exact iff_of_true rfl trivial

end Sys2Proof.Machine
end

section
/-! PROOF. The state (spec/10_state.md), part 1: what an instruction leaves unchanged (R62, R63) and the flags (R64). -/

namespace Sys2Proof.Machine

/-! ### What an instruction leaves unchanged -/

/-- The frame of an instruction other than a reset, in a step from `s` to `s'`: each field keeps its value or the
instruction is one of the words 10_state.md R62 (the access column), R63 and R56 to R58 name for it. -/
structure Frame (i : Instr) (s s' : State) : Prop where
  draws : s'.draws = s.draws
  ctx : s'.ctx = s.ctx ∨ i = .isEnter ∨ i = .isReturn
  mpc : s'.mpc = s.mpc ∨ i.isMain = true
  ipc : s'.ipc = s.ipc ∨ i = .isEnter ∨ i = .isCapture
  gie : s'.gie = s.gie ∨ i = .suCli ∨ i = .mlSei ∨ i = .isEnter ∨ i = .isReturn
  sw : s'.sw = s.sw ∨ i = .mlRead
  t : s'.t = s.t ∨ i = .mlMread
  rcf : s'.rcf = s.rcf ∨ i = .suClrrc
  wdtEn : s'.wdtEn = s.wdtEn ∨ i = .suWdoff
  wdtTo : s'.wdtTo = s.wdtTo
  clkdiv : s'.clkdiv = s.clkdiv ∨ i = .inClk
  timerMode : (s'.tmode = s.tmode ∧ s'.tcom = s.tcom ∧ s'.tcs = s.tcs) ∨ i = .inTmode
  tie : s'.tie = s.tie ∨ i = .inTirq
  tcnt : s'.tcnt = s.tcnt ∨ i = .inTcnt0 ∨ i = .tmTick
  ttop : s'.ttop = s.ttop ∨ i = .inTtop
  tcmp : s'.tcmp = s.tcmp ∨ i = .inTcmp ∨ i = .mlCenter ∨ i = .mlMwrite
  tcmpa : s'.tcmpa = s.tcmpa ∨ i = .inTcmp ∨ i = .mlCenter ∨ i = .mlMwrite ∨ i = .tmTick
  toc : s'.toc = s.toc ∨ i = .inTmode ∨ i = .tmTick
  adcMux : (s'.aref = s.aref ∧ s'.ach = s.ach ∧ s'.alar = s.alar) ∨ i = .inAmux
  adcControl : (s'.aen = s.aen ∧ s'.aate = s.aate ∧ s'.aie = s.aie ∧ s'.aps = s.aps) ∨ i = .inActl
  arun : s'.arun = s.arun ∨ i = .inActl ∨ ∃ v, i = .adDone v
  aif : s'.aif = s.aif ∨ i = .isEnter ∨ ∃ v, i = .adDone v
  aresh : s'.aresh = s.aresh ∨ ∃ v, i = .adDone v
  gdir : s'.gdir = s.gdir ∨ i = .inGdir
  portSetup : (s'.gout = s.gout ∧ s'.gpue = s.gpue) ∨ i = .inGpue
  gpin : s'.gpin = s.gpin ∨ ∃ v, i = .ioLatch v
  sample : s'.sample = s.sample ∨ i = .isCapture
  prev : s'.prev = s.prev ∨ i = .mlSeed ∨ i = .mlRecord
  swc : s'.swc = s.swc ∨ ∃ v, i = .evSw v
  fault : s'.fault = s.fault ∨ i = .tmTick ∨ i = .isCapture
  refused : s'.refused = s.refused ∨ (∃ v, i = .ioLatch v) ∨ ∃ v, i = .evSw v

theorem after_frame {i : Instr} (s : State) (hr : i.isReset = false) : Frame i s (after i s) := by
  cases i with
  | rsPor v | rsWdt v | rsOth v => cases hr
  | isCapture | tmTick | ioLatch ff | evSw b =>
    simp only [after]
    split_ifs <;> constructor <;> simp
  | _ => constructor <;> simp [after, Instr.isMain]

theorem after_reset_frame {i : Instr} (s : State) (hr : i.isReset = true) :
    (after i s).swc = s.swc ∧ (after i s).fault = s.fault ∧ (after i s).refused = s.refused := by
  cases i with
  | rsPor v | rsWdt v | rsOth v => exact ⟨rfl, rfl, rfl⟩
  | _ => cases hr

/-- Settles O29: a next state is `after i s`, and `after_frame` has a clause for each field. -/
theorem fieldsChangeOnlyByTheirNamedWords : Obligations.FieldsChangeOnlyByTheirNamedWords := by
  intro i s s' h
  obtain ⟨-, rfl⟩ := exec_next h
  refine ⟨⟨after_cfg i s, after_trace i s⟩, after_reset_frame s, fun hr => ?_⟩
  have f := after_frame s hr
  simp only [ne_eq, ← not_and_or]
  exact ⟨f.draws, f.ctx.resolve_left, f.mpc.resolve_left, f.ipc.resolve_left, f.gie.resolve_left, f.sw.resolve_left,
    f.t.resolve_left, f.rcf.resolve_left, f.wdtEn.resolve_left, f.wdtTo, f.clkdiv.resolve_left,
    f.timerMode.resolve_left, f.tie.resolve_left, f.tcnt.resolve_left, f.ttop.resolve_left, f.tcmp.resolve_left,
    f.tcmpa.resolve_left, f.toc.resolve_left, f.adcMux.resolve_left, f.adcControl.resolve_left, f.arun.resolve_left,
    f.aif.resolve_left, f.aresh.resolve_left, f.gdir.resolve_left, f.portSetup.resolve_left, f.gpin.resolve_left,
    f.sample.resolve_left, f.prev.resolve_left, f.swc.resolve_left, f.fault.resolve_left, f.refused.resolve_left⟩

/-! ### The flags (R64) -/

/-- Settles O30: the change of each instruction, read off case by case; no branch of the four words that test a field
writes a flag. -/
theorem flagsAfterEachOperation : Obligations.FlagsAfterEachOperation := by
  intro i s s' h
  obtain ⟨-, rfl⟩ := exec_next h
  cases i with
  | isCapture | tmTick | ioLatch ff | evSw b =>
    simp only [after]
    split_ifs <;> exact ⟨rfl, rfl, rfl⟩
  | _ => exact ⟨rfl, rfl, rfl⟩

end Sys2Proof.Machine
end

section
/-! PROOF. The state (spec/10_state.md), part 2: how the main program moves through its phases (R34). -/

namespace Sys2Proof.Machine

theorem code_after_main_lt {i : Instr} (s : State) (hm : i.isMain = true) : (after i s).mpc.code < 20 := by
  cases i with
  | isEnter | isCapture | isReturn | tmTick | adDone v | ioLatch v | evSw v | rsPor v | rsWdt v | rsOth v => cases hm
  | _ => simp [after, Phase.code]

/-- The main program steps over each threshold of the boot sequence by the word of `boot` that stands there, and by no
other but a reset (10_state.md R34). -/
theorem code_after_le_iff {i w : Instr} {s : State} {k : Nat} (he : enabled i s = true) (hr : i.isReset = false)
    (hw : boot[k]? = some w) (hi : i ≠ w) : (after i s).mpc.code ≤ k ↔ s.mpc.code ≤ k := by
  have hk : k < 16 := (List.getElem?_eq_some_iff.mp hw).1
  cases hm : i.isMain with
  | false => rw [(after_frame s hr).mpc.resolve_right (by simp [hm])]
  | true =>
    cases i with
    | isEnter | isCapture | isReturn | tmTick | adDone v | ioLatch v | evSw v | rsPor v | rsWdt v | rsOth v => cases hm
    | mlRead | mlCenter | mlMread | mlSkip | mlMwrite | mlRecord =>
      have hp := he
      simp only [enabled, Bool.and_eq_true, s.atPhase_iff] at hp
      simp only [after, State.goto_mpc, hp, Phase.code]
      omega
    | suCli | suClrrc | suWdoff | inClk | inTcnt0 | inTcmp | inTtop | inTmode | inTirq | inAmux | inActl | inGdir
    | inGpue | mlSei | mlSettle | mlSeed =>
      obtain ⟨-, hp⟩ := (s.atPhase_iff _).mp he
      simp only [after, State.goto_mpc, hp, Phase.code]
      have hne : k ≠ s.mpc.code := by
        rintro rfl
        rw [hp] at hw
        exact hi (Option.some.inj hw)
      rw [hp, Phase.code] at hne
      omega

end Sys2Proof.Machine
end

section
/-! PROOF. The state (spec/10_state.md), part 3: the invariant of the block, unit by unit. Each clause of `BlockInv` has
a threshold in the phase order and fields it speaks of; the word that crosses the threshold is one that writes the
fields, and any other word leaves the clause as it was (`code_after_le_iff`, `after_frame`). -/

namespace Sys2Proof.Machine

/-! ### The values the compare register takes (45_control_loop.md R311) -/

theorem centerByte_toNat {c : Cfg} (hc : c.wf = true) : (centerByte c).toNat = c.pwmCenter := by
  obtain ⟨⟨-, hch, hh⟩, -⟩ := c.wf_iff.mp hc
  simp only [centerByte, BitVec.toNat_ofNat]
  omega

theorem centerByte_mem_range {c : Cfg} (hc : c.wf = true) :
    c.pwmLow ≤ (centerByte c).toNat ∧ (centerByte c).toNat ≤ c.pwmHigh := by
  obtain ⟨⟨hlc, hch, -⟩, -⟩ := c.wf_iff.mp hc
  rw [centerByte_toNat hc]
  exact ⟨hlc, hch⟩

/-- The scaled sample is at most `PWM_RANGE` above `PWM_LOW`, because a sample is at most 255
(45_control_loop.md R310). -/
theorem scale_mem_range {c : Cfg} (hc : c.wf = true) (x : Byte) :
    c.pwmLow ≤ (scale c x).toNat ∧ (scale c x).toNat ≤ c.pwmHigh := by
  obtain ⟨⟨hlc, hch, hh⟩, -⟩ := c.wf_iff.mp hc
  have hx : x.toNat * (c.pwmHigh - c.pwmLow) / 255 ≤ c.pwmHigh - c.pwmLow := by
    have hle : x.toNat ≤ 255 := Nat.le_of_lt_succ x.isLt
    exact Nat.div_le_of_le_mul (Nat.mul_le_mul_right _ hle)
  simp only [scale, BitVec.toNat_ofNat]
  omega

/-! ### The value in effect -/

theorem writeCmp_tcmpa_or (s : State) (v : Byte) :
    (s.writeCmp v).tcmpa = s.tcmpa ∨ (s.writeCmp v).tcmpa = v := by
  rw [State.writeCmp_tcmpa]
  exact ite_eq_or_eq _ _ _

theorem tick_tcmpa_or (s : State) : s.tick.tcmpa = s.tcmpa ∨ s.tick.tcmpa = s.tick.tcmp := by
  rw [State.tick_tcmpa, State.tick_tcmp]
  exact (ite_eq_or_eq _ _ _).symm

namespace BlockInv

section
variable {s : State} (h : BlockInv s)
include h

/-! ### What the invariant says where a unit's words are enabled -/

theorem pwmTop_lt : s.cfg.pwmTop < 2 ^ s.cfg.wT := by
  obtain ⟨-, ⟨-, htop⟩, -⟩ := s.cfg.wf_iff.mp h.cfgWf
  have : 0 < 2 ^ s.cfg.wT := Nat.two_pow_pos _
  omega

theorem ttop_lt : s.ttop < 2 ^ s.cfg.wT := by
  have := h.pwmTop_lt
  have := h.top
  split_ifs at this <;> omega

/-- In the invariant the counter never wraps at the register's width, only at the top value. -/
theorem nextCount_eq : nextCount s = if s.tcnt = s.ttop then 0 else s.tcnt + 1 := by
  have := h.ttop_lt
  have := h.countBelowTop
  unfold nextCount
  split_ifs
  · rfl
  · exact Nat.mod_eq_of_lt (by omega)

theorem code_ge_of_enabled_tmTick (he : enabled .tmTick s = true) : 8 ≤ s.mpc.code := by
  by_contra hlt
  obtain ⟨-, -, htcs, -⟩ := h.timerStopped (by omega)
  exact (enabled_tmTick_iff s).mp he htcs

/-- A tick never meets a stopped or reserved timer field (42_pwm_timer.md R191, R197). -/
theorem after_tmTick (he : enabled .tmTick s = true) : after .tmTick s = s.tick := by
  obtain ⟨hmode, hcom, hcs⟩ := h.timerRuns (h.code_ge_of_enabled_tmTick he)
  simp [after, reservedTimerField, hmode, hcom, hcs, tmodePwmTop, tcomNoninv, tcsRunning]

theorem code_ge_of_isr (hc : s.ctx = .isr) : 14 ≤ s.mpc.code := by
  by_contra hlt
  obtain ⟨hmain, -⟩ := h.beforeSei (by omega)
  simp [hc] at hmain

/-- A capture never meets a right-aligned result (43_adc_sample_capture.md R240). -/
theorem after_isCapture (he : enabled .isCapture s = true) :
    after .isCapture s = { s.writeSample s.aresh with ipc := .ret } := by
  have hcode := h.code_ge_of_isr ((s.atHandler_iff _).mp he).1
  obtain ⟨-, -, halar⟩ := h.muxSet (by omega)
  simp [after, halar]

theorem code_ge_of_gie (hg : s.gie = true) : 14 ≤ s.mpc.code := by
  by_contra hlt
  obtain ⟨-, hoff⟩ := h.beforeSei (by omega)
  simp [hg] at hoff

theorem code_ge_of_aen (ha : s.aen = true) : 11 ≤ s.mpc.code := by
  by_contra hlt
  obtain ⟨hoff, -⟩ := h.adcOff (by omega)
  simp [ha] at hoff

theorem cmpHeld_eq (hcode : 8 ≤ s.mpc.code) : s.cmpHeld = s.cfg.cmpBuffered := by
  obtain ⟨hmode, -⟩ := h.timerRuns hcode
  simp [State.cmpHeld, hmode]

theorem cmpHeld_eq_false (hcode : s.mpc.code ≤ 7) : s.cmpHeld = false := by
  obtain ⟨hmode, -⟩ := h.timerStopped hcode
  simp [State.cmpHeld, hmode, tmodePwmTop]

/-- A tick of a buffered timer keeps the pulse's shape: the output falls where the count passes the compare value and
rises with the new period (42_pwm_timer.md R191, R193). -/
theorem tick_pulse (hb : s.cfg.cmpBuffered = true) (hp : s.toc = decide (s.tcnt ≤ s.tcmpa.toNat)) :
    s.tick.toc = decide (s.tick.tcnt ≤ s.tick.tcmpa.toNat) := by
  by_cases htop : s.tcnt = s.ttop
  · simp [h.nextCount_eq, htop, hb]
  · simp only [State.tick_toc, State.tick_tcnt, State.tick_tcmpa, h.nextCount_eq, if_neg htop]
    by_cases hmatch : s.tcnt = s.tcmpa.toNat
    · simp [hmatch]
    · have : s.tcnt ≤ s.tcmpa.toNat ↔ s.tcnt + 1 ≤ s.tcmpa.toNat := by omega
      simp [hmatch, hp, this]

/-- IN.TCMP writes both values at once, for the timer is still stopped (42_pwm_timer.md R190). -/
theorem after_inTcmp (he : enabled .inTcmp s = true) :
    (after .inTcmp s).tcmp = centerByte s.cfg ∧ (after .inTcmp s).tcmpa = centerByte s.cfg := by
  obtain ⟨-, hp⟩ := (s.atPhase_iff _).mp he
  simp [after, h.cmpHeld_eq_false (by simp [hp, Phase.code])]

end

section
variable {i : Instr} {s : State} (h : BlockInv s) (he : enabled i s = true) (hr : i.isReset = false)
include h he hr

/-! ### The CPU: contexts, phases and marks -/

theorem after_noFault : (after i s).fault = none := by
  rcases (after_frame s hr).fault with hf | rfl | rfl
  · rw [hf, h.noFault]
  · simp [h.after_tmTick he, h.noFault]
  · simp [h.after_isCapture he, h.noFault]

omit he in
theorem after_phase : (after i s).mpc.code < 20 := by
  rcases (after_frame s hr).mpc with hp | hm
  · rw [hp]
    exact h.phase
  · exact code_after_main_lt s hm

/-- The two clauses of the global enable: ML.SEI opens the phases it may be 1 in, and entry and return change it
with the context. -/
theorem after_enable :
    ((after i s).mpc.code ≤ 13 → (after i s).ctx = .main ∧ (after i s).gie = false) ∧
    (14 ≤ (after i s).mpc.code → (after i s).gie = decide ((after i s).ctx = .main)) := by
  by_cases hsei : i = .mlSei
  · subst hsei
    simp [after, Phase.code, ((s.atPhase_iff _).mp he).1]
  by_cases hcli : i = .suCli
  · subst hcli
    simp [after, Phase.code, ((s.atPhase_iff _).mp he).1]
  by_cases henter : i = .isEnter
  · subst henter
    obtain ⟨-, hg, -⟩ := (enabled_isEnter_iff s).mp he
    have := h.code_ge_of_gie hg
    simp only [after, State.enterInterrupt_mpc]
    exact ⟨fun hlt => by omega, fun _ => rfl⟩
  by_cases hreturn : i = .isReturn
  · subst hreturn
    have := h.code_ge_of_isr ((s.atHandler_iff _).mp he).1
    simp only [after, State.returnFromInterrupt_mpc]
    exact ⟨fun hlt => by omega, fun _ => rfl⟩
  have hctx := (after_frame s hr).ctx.resolve_right (by simp [henter, hreturn])
  have hgie := (after_frame s hr).gie.resolve_right (by simp [henter, hreturn, hsei, hcli])
  have hk := code_after_le_iff he hr (k := 13) rfl hsei
  rw [hctx, hgie]
  exact ⟨fun hle => h.beforeSei (hk.mp hle), fun hge => h.afterSei (by omega)⟩

theorem after_manualWrite (hm : (after i s).mpc = .mwrite) : (after i s).sw = false := by
  cases hmain : i.isMain with
  | false =>
    have hsw := (after_frame s hr).sw.resolve_right (by rintro rfl; cases hmain)
    have hmpc := (after_frame s hr).mpc.resolve_right (by simp [hmain])
    rw [hsw]
    exact h.manualWrite (hmpc ▸ hm)
  | true =>
    cases i with
    | isEnter | isCapture | isReturn | tmTick | adDone v | ioLatch v | evSw v | rsPor v | rsWdt v | rsOth v =>
      cases hmain
    | mlMread => exact ((enabled_mlMread_iff s).mp he).2.2
    | _ => simp [after] at hm

/-! ### The reset cause, the watchdog and the clock -/

theorem after_causeClear (hcode : 2 ≤ (after i s).mpc.code) : (after i s).rcf = 0 := by
  by_cases hi : i = .suClrrc
  · subst hi
    rfl
  · have hk := code_after_le_iff he hr (k := 1) rfl hi
    rw [(after_frame s hr).rcf.resolve_right hi]
    exact h.causeClear (by omega)

/-- SU.WDOFF meets cleared cause flags, so that nothing locks the watchdog (40_startup.md R142, R143). -/
theorem after_watchdogOff (hcode : 3 ≤ (after i s).mpc.code) :
    (after i s).wdtEn = false := by
  by_cases hi : i = .suWdoff
  · subst hi
    obtain ⟨-, hp⟩ := (s.atPhase_iff _).mp he
    have hrcf := h.causeClear (by simp [hp, Phase.code])
    simp [after, State.wdtLocked, State.wdtCause, hrcf]
  · have hk := code_after_le_iff he hr (k := 2) rfl hi
    rw [(after_frame s hr).wdtEn.resolve_right hi]
    exact h.watchdogOff (by omega)

theorem after_divider :
    (after i s).clkdiv = if (after i s).mpc.code ≤ 3 then s.cfg.clkDivReset else s.cfg.clkDivCfg := by
  by_cases hi : i = .inClk
  · subst hi
    simp [after, Phase.code]
  · simp only [(after_frame s hr).clkdiv.resolve_right hi, code_after_le_iff he hr (k := 3) rfl hi]
    exact h.divider

/-! ### The timer -/

theorem after_timerStopped (hcode : (after i s).mpc.code ≤ 7) :
    (after i s).tmode = 0 ∧ (after i s).tcom = 0 ∧ (after i s).tcs = 0 ∧ (after i s).tcnt = 0 ∧
      (after i s).toc = false := by
  have hmode : i ≠ .inTmode := by
    rintro rfl
    simp [after, Phase.code] at hcode
  have hstop := (code_after_le_iff he hr (k := 7) rfl hmode).mp hcode
  have htick : i ≠ .tmTick := by
    rintro rfl
    have := h.code_ge_of_enabled_tmTick he
    omega
  obtain ⟨hm, hcom, hcs, hcnt, htoc⟩ := h.timerStopped hstop
  obtain ⟨hm', hcom', hcs'⟩ := (after_frame s hr).timerMode.resolve_right hmode
  have hcnt' : (after i s).tcnt = 0 := by
    rcases (after_frame s hr).tcnt with hc | rfl | rfl
    · rw [hc, hcnt]
    · rfl
    · exact absurd rfl htick
  rw [hm', hcom', hcs', (after_frame s hr).toc.resolve_right (by simp [hmode, htick])]
  exact ⟨hm, hcom, hcs, hcnt', htoc⟩

theorem after_timerRuns (hcode : 8 ≤ (after i s).mpc.code) :
    (after i s).tmode = tmodePwmTop ∧ (after i s).tcom = tcomNoninv ∧ (after i s).tcs = tcsRunning := by
  by_cases hi : i = .inTmode
  · subst hi
    exact ⟨rfl, rfl, rfl⟩
  · have hk := code_after_le_iff he hr (k := 7) rfl hi
    obtain ⟨hm, hcom, hcs⟩ := (after_frame s hr).timerMode.resolve_right hi
    rw [hm, hcom, hcs]
    exact h.timerRuns (by omega)

omit he in
theorem after_noTimerInterrupt : (after i s).tie = 0 := by
  rcases (after_frame s hr).tie with ht | rfl
  · rw [ht, h.noTimerInterrupt]
  · rfl

theorem after_top :
    (after i s).ttop = if (after i s).mpc.code ≤ 6 then 0 else s.cfg.pwmTop := by
  by_cases hi : i = .inTtop
  · subst hi
    simp [after, Phase.code]
  · simp only [(after_frame s hr).ttop.resolve_right hi, code_after_le_iff he hr (k := 6) rfl hi]
    exact h.top

theorem after_countBelowTop : (after i s).tcnt ≤ (after i s).ttop := by
  by_cases htop : i = .inTtop
  · subst htop
    obtain ⟨-, hp⟩ := (s.atPhase_iff _).mp he
    obtain ⟨-, -, -, hcnt, -⟩ := h.timerStopped (by simp [hp, Phase.code])
    simp [after, hcnt]
  have hle := h.countBelowTop
  rw [(after_frame s hr).ttop.resolve_right htop]
  rcases (after_frame s hr).tcnt with hc | rfl | rfl
  · rw [hc]
    exact hle
  · exact Nat.zero_le _
  · rw [h.after_tmTick he, State.tick_tcnt, h.nextCount_eq]
    split_ifs <;> omega

/-! ### The compare register and the pulse -/

/-- The value in effect is left or becomes the register's (42_pwm_timer.md R190, R192). -/
theorem after_tcmpa : (after i s).tcmpa = s.tcmpa ∨ (after i s).tcmpa = (after i s).tcmp := by
  rcases (after_frame s hr).tcmpa with ha | rfl | rfl | rfl | rfl
  · exact .inl ha
  · exact writeCmp_tcmpa_or ..
  · exact writeCmp_tcmpa_or ..
  · exact writeCmp_tcmpa_or ..
  · rw [h.after_tmTick he]
    exact tick_tcmpa_or s

omit h he in
/-- Before the loop no word but IN.TCMP writes the register. -/
theorem after_tcmp_of_code_le (hi : i ≠ .inTcmp) (hcode : (after i s).mpc.code ≤ 15) :
    (after i s).tcmp = s.tcmp := by
  rcases (after_frame s hr).tcmp with hc | rfl | rfl | rfl
  · exact hc
  · exact absurd rfl hi
  · simp [after, Phase.code] at hcode
  · simp [after, Phase.code] at hcode

theorem after_compareReset (hcode : (after i s).mpc.code ≤ 5) : (after i s).tcmp = 0 ∧ (after i s).tcmpa = 0 := by
  have hi : i ≠ .inTcmp := by
    rintro rfl
    simp [after, Phase.code] at hcode
  obtain ⟨hc, hca⟩ := h.compareReset ((code_after_le_iff he hr rfl hi).mp hcode)
  have hc' : (after i s).tcmp = 0 := by rw [after_tcmp_of_code_le hr hi (by omega), hc]
  refine ⟨hc', ?_⟩
  rcases h.after_tcmpa he hr with ha | ha
  · rw [ha, hca]
  · rw [ha, hc']

theorem after_compareCenter (hge : 6 ≤ (after i s).mpc.code) (hle : (after i s).mpc.code ≤ 15) :
    (after i s).tcmp = centerByte s.cfg ∧ (after i s).tcmpa = centerByte s.cfg := by
  by_cases hi : i = .inTcmp
  · subst hi
    exact h.after_inTcmp he
  have hseed : i ≠ .mlSeed := by
    rintro rfl
    simp [after, Phase.code] at hle
  have hlow := code_after_le_iff he hr (k := 5) rfl hi
  have hhigh := code_after_le_iff he hr (k := 15) rfl hseed
  obtain ⟨hc, hca⟩ := h.compareCenter (by omega) (by omega)
  have hc' : (after i s).tcmp = centerByte s.cfg := by rw [after_tcmp_of_code_le hr hi hle, hc]
  refine ⟨hc', ?_⟩
  rcases h.after_tcmpa he hr with ha | ha
  · rw [ha, hca]
  · rw [ha, hc']

theorem after_compareRange (hcode : 6 ≤ (after i s).mpc.code) :
    s.cfg.pwmLow ≤ (after i s).tcmp.toNat ∧ (after i s).tcmp.toNat ≤ s.cfg.pwmHigh ∧
      s.cfg.pwmLow ≤ (after i s).tcmpa.toNat ∧ (after i s).tcmpa.toNat ≤ s.cfg.pwmHigh := by
  have hcenter := centerByte_mem_range h.cfgWf
  by_cases hi : i = .inTcmp
  · subst hi
    obtain ⟨hc, hca⟩ := h.after_inTcmp he
    rw [hc, hca]
    exact ⟨hcenter.1, hcenter.2, hcenter⟩
  have hk := code_after_le_iff he hr (k := 5) rfl hi
  obtain ⟨hlo, hhi, hrange⟩ := h.compareRange (by omega)
  have hc' : s.cfg.pwmLow ≤ (after i s).tcmp.toNat ∧ (after i s).tcmp.toNat ≤ s.cfg.pwmHigh := by
    rcases (after_frame s hr).tcmp with hc | rfl | rfl | rfl
    · rw [hc]
      exact ⟨hlo, hhi⟩
    · exact absurd rfl hi
    · exact hcenter
    · exact scale_mem_range h.cfgWf s.t
  refine ⟨hc'.1, hc'.2, ?_⟩
  rcases h.after_tcmpa he hr with ha | ha
  · rw [ha]
    exact hrange
  · rw [ha]
    exact hc'

theorem after_compareSame (hu : s.cfg.cmpBuffered = false) : (after i s).tcmpa = (after i s).tcmp := by
  have hnow : s.cmpHeld = false := by simp [State.cmpHeld, hu]
  rcases (after_frame s hr).tcmp with hc | rfl | rfl | rfl
  · rcases h.after_tcmpa he hr with ha | ha
    · rw [ha, hc, h.compareSame hu]
    · exact ha
  · simp [after, hnow]
  · simp [after, hnow]
  · simp [after, hnow]

/-- The tick keeps the pulse's shape: the output falls where the count passes the compare value and rises with the new
period (42_pwm_timer.md R191, R193). -/
theorem after_pulse (hb : s.cfg.cmpBuffered = true) (hcode : 8 ≤ (after i s).mpc.code) :
    (after i s).toc = decide ((after i s).tcnt ≤ (after i s).tcmpa.toNat) := by
  by_cases hmode : i = .inTmode
  · subst hmode
    obtain ⟨-, hp⟩ := (s.atPhase_iff _).mp he
    obtain ⟨-, -, -, hcnt, -⟩ := h.timerStopped (by simp [hp, Phase.code])
    simp [after, hcnt]
  have hk := code_after_le_iff he hr (k := 7) rfl hmode
  have hpulse := h.pulse hb (by omega)
  by_cases htick : i = .tmTick
  · subst htick
    rw [h.after_tmTick he, h.tick_pulse hb hpulse]
  have hcnt : (after i s).tcnt = s.tcnt := by
    refine (after_frame s hr).tcnt.resolve_right ?_
    rintro (rfl | rfl)
    · simp [after, Phase.code] at hcode
    · exact htick rfl
  have ha : (after i s).tcmpa = s.tcmpa := by
    have hheld := (h.cmpHeld_eq (by omega)).trans hb
    rcases (after_frame s hr).tcmpa with ha | rfl | rfl | rfl | rfl
    · exact ha
    · simp [after, hheld]
    · simp [after, hheld]
    · simp [after, hheld]
    · exact absurd rfl htick
  rw [(after_frame s hr).toc.resolve_right (by simp [hmode, htick]), hcnt, ha]
  exact hpulse

/-! ### The converter -/

theorem after_muxReset (hcode : (after i s).mpc.code ≤ 9) :
    (after i s).aref = 0 ∧ (after i s).ach = 0 ∧ (after i s).alar = false := by
  have hi : i ≠ .inAmux := by
    rintro rfl
    simp [after, Phase.code] at hcode
  obtain ⟨hr', hc', hl'⟩ := (after_frame s hr).adcMux.resolve_right hi
  rw [hr', hc', hl']
  exact h.muxReset ((code_after_le_iff he hr rfl hi).mp hcode)

theorem after_muxSet (hcode : 10 ≤ (after i s).mpc.code) :
    (after i s).aref = s.cfg.adcRef ∧ (after i s).ach = s.cfg.adcCh ∧ (after i s).alar = true := by
  by_cases hi : i = .inAmux
  · subst hi
    exact ⟨rfl, rfl, rfl⟩
  · have hk := code_after_le_iff he hr (k := 9) rfl hi
    obtain ⟨hr', hc', hl'⟩ := (after_frame s hr).adcMux.resolve_right hi
    rw [hr', hc', hl']
    exact h.muxSet (by omega)

/-- Before IN.ACTL no conversion completes, for the converter is off (43_adc_sample_capture.md R230). -/
theorem after_adcOff (hcode : (after i s).mpc.code ≤ 10) :
    (after i s).aen = false ∧ (after i s).arun = false ∧ (after i s).aate = false ∧ (after i s).aie = false ∧
      (after i s).aif = false ∧ (after i s).aps = 0 := by
  have hi : i ≠ .inActl := by
    rintro rfl
    simp [after, Phase.code] at hcode
  have hoff := (code_after_le_iff he hr (k := 10) rfl hi).mp hcode
  have hdone : ∀ v, i ≠ .adDone v := by
    rintro v rfl
    have := h.code_ge_of_aen ((enabled_adDone_iff v s).mp he).1
    omega
  obtain ⟨hen, hrun, hate, hie, hif, hps⟩ := h.adcOff hoff
  obtain ⟨hen', hate', hie', hps'⟩ := (after_frame s hr).adcControl.resolve_right hi
  have hif' : (after i s).aif = false := by
    rcases (after_frame s hr).aif with ha | rfl | ⟨v, rfl⟩
    · rw [ha, hif]
    · rfl
    · exact absurd rfl (hdone v)
  rw [hen', hate', hie', hps', (after_frame s hr).arun.resolve_right (by simp [hi, hdone])]
  exact ⟨hen, hrun, hate, hie, hif', hps⟩

/-- After IN.ACTL a completed conversion starts the next one (43_adc_sample_capture.md R230). -/
theorem after_adcOn (hcode : 11 ≤ (after i s).mpc.code) :
    (after i s).aen = true ∧ (after i s).arun = true ∧ (after i s).aate = true ∧ (after i s).aie = true ∧
      (after i s).aps = s.cfg.adcPs := by
  by_cases hi : i = .inActl
  · subst hi
    exact ⟨rfl, rfl, rfl, rfl, rfl⟩
  have hk := code_after_le_iff he hr (k := 10) rfl hi
  obtain ⟨hen, hrun, hate, hie, hps⟩ := h.adcOn (by omega)
  obtain ⟨hen', hate', hie', hps'⟩ := (after_frame s hr).adcControl.resolve_right hi
  have hrun' : (after i s).arun = true := by
    rcases (after_frame s hr).arun with ha | rfl | ⟨v, rfl⟩
    · rw [ha, hrun]
    · rfl
    · exact hate
  rw [hen', hate', hie', hps']
  exact ⟨hen, hrun', hate, hie, hps⟩

/-! ### The port -/

theorem after_directions : (after i s).gdir = if (after i s).mpc.code ≤ 11 then 0 else bit s.cfg.pwmPin := by
  by_cases hi : i = .inGdir
  · subst hi
    simp [after, Phase.code]
  · simp only [(after_frame s hr).gdir.resolve_right hi, code_after_le_iff he hr (k := 11) rfl hi]
    exact h.directions

theorem after_pullUps : (after i s).gpue = if (after i s).mpc.code ≤ 12 then 0 else bit s.cfg.swPin := by
  by_cases hi : i = .inGpue
  · subst hi
    simp [after, Phase.code]
  · simp only [((after_frame s hr).portSetup.resolve_right hi).2, code_after_le_iff he hr (k := 12) rfl hi]
    exact h.pullUps

omit he in
theorem after_outputsZero : (after i s).gout = 0 := by
  rcases (after_frame s hr).portSetup with ⟨ho, -⟩ | rfl
  · rw [ho, h.outputsZero]
  · rfl

omit he in
theorem after_latchPins : (after i s).gpin.toNat < 2 ^ s.cfg.nPins := by
  rcases (after_frame s hr).gpin with hg | ⟨ff, rfl⟩
  · rw [hg]
    exact h.latchPins
  · obtain ⟨-, -, -, -, ⟨-, hn⟩, -⟩ := s.cfg.wf_iff.mp h.cfgWf
    simp only [after]
    split_ifs
    · exact latchValue_lt ff s hn
    · exact h.latchPins

/-! ### All units -/

theorem after_of_not_reset : BlockInv (after i s) where
  cfgWf := by rw [after_cfg, h.cfgWf]
  noFault := h.after_noFault he hr
  phase := h.after_phase hr
  beforeSei := (h.after_enable he hr).1
  afterSei := (h.after_enable he hr).2
  causeClear := h.after_causeClear he hr
  watchdogOff := h.after_watchdogOff he hr
  fastestTimeout := by rw [(after_frame s hr).wdtTo, h.fastestTimeout]
  divider := by rw [after_cfg, h.after_divider he hr]
  timerStopped := h.after_timerStopped he hr
  timerRuns := h.after_timerRuns he hr
  noTimerInterrupt := h.after_noTimerInterrupt hr
  top := by rw [after_cfg, h.after_top he hr]
  countBelowTop := h.after_countBelowTop he hr
  compareReset := h.after_compareReset he hr
  compareCenter := by rw [after_cfg]; exact h.after_compareCenter he hr
  compareRange := by rw [after_cfg]; exact h.after_compareRange he hr
  compareSame := by rw [after_cfg]; exact h.after_compareSame he hr
  pulse := by rw [after_cfg]; exact h.after_pulse he hr
  muxReset := h.after_muxReset he hr
  muxSet := by rw [after_cfg]; exact h.after_muxSet he hr
  adcOff := h.after_adcOff he hr
  adcOn := by rw [after_cfg]; exact h.after_adcOn he hr
  directions := by rw [after_cfg, h.after_directions he hr]
  pullUps := by rw [after_cfg, h.after_pullUps he hr]
  outputsZero := h.after_outputsZero hr
  latchPins := by rw [after_cfg]; exact h.after_latchPins hr
  manualWrite := h.after_manualWrite he hr

end

/-! ### The start of the boot sequence, and the words that lead there -/

/-- After a reset every clause speaks of the reset values (10_state.md R66), whatever the reset-cause flags and the
watchdog's enable hold. -/
theorem of_reset {s : State} (hc : s.cfg.wf = true) (hf : s.fault = none) (v : Byte) (cause : BitVec 3) (en : Bool) :
    BlockInv (((s.resetState v).setRcf cause).setWatchdog en 0) := by
  constructor <;> simp [Phase.code, hc, hf]

theorem after_of_reset {i : Instr} {s : State} (h : BlockInv s) (hr : i.isReset = true) : BlockInv (after i s) := by
  cases i with
  | rsPor v => exact of_reset h.cfgWf h.noFault v _ _
  | rsWdt v => exact of_reset h.cfgWf h.noFault v _ _
  | rsOth v =>
    have hto : after (.rsOth v) s = (((s.resetState v).setRcf (s.rcf ||| rcfOth)).setWatchdog s.wdtEn 0) := by
      rw [← h.fastestTimeout]
      rfl
    rw [hto]
    exact of_reset h.cfgWf h.noFault v _ _
  | _ => cases hr

/-- Every enabled word keeps the invariant. -/
theorem after_of_enabled {i : Instr} {s : State} (h : BlockInv s) (he : enabled i s = true) : BlockInv (after i s) := by
  cases hr : i.isReset with
  | true => exact h.after_of_reset hr
  | false => exact h.after_of_not_reset he hr

/-- The invariant does not speak of the model's own fields or the refusal mark. -/
theorem nextWord_snd {s : State} (h : BlockInv s) : BlockInv (nextWord s).2 := by
  rcases nextWord_state s with hs | hs <;> rw [hs] <;> exact { h with }

theorem refuse {s : State} (h : BlockInv s) (r : RefusalReason) : BlockInv (s.refuse r) := { h with }

theorem of_isLaunch {s : State} (h : IsLaunch s) : BlockInv s := by
  obtain ⟨hc, hs⟩ := h
  have hf : s.fault = none := by rw [hs]; rfl
  have hb := of_reset hc hf s.sample 0b001 s.cfg.wdtPorEn
  rw [hs]
  exact { hb with noFault := rfl, manualWrite := nofun }

end BlockInv

/-- Settles O33: a next state is a refusal mark, or the change of one enabled word, in the state whose word was
taken. -/
theorem everyStepKeepsTheInvariant : Obligations.EveryStepKeepsTheInvariant := by
  intro s s' h hstep
  obtain ⟨-, -, ⟨hc, -⟩ | ⟨-, r, rfl⟩ | ⟨-, i, -, he, rfl⟩⟩ := step_next hstep
  · simp [h.cfgWf] at hc
  · exact h.nextWord_snd.refuse r
  · exact h.nextWord_snd.after_of_enabled he

theorem isLaunch_reset : IsLaunch State.reset := ⟨by decide, rfl⟩

/-- Settles O32: the reset state is itself a launch state. -/
theorem launchStatesMeetTheInvariant : Obligations.LaunchStatesMeetTheInvariant :=
  ⟨.of_isLaunch isLaunch_reset, fun _ h => .of_isLaunch h⟩

end Sys2Proof.Machine
end

section
/-! PROOF. The state (spec/10_state.md), part 4: the next word (R31), the marks (R60, R61), the reachable states (R67)
and the register view (R62). -/

namespace Sys2Proof

/-- 30_encoding.md R112, R118: the decoder reads an encoded instruction with a legal argument back. -/
theorem decode_encode {n : Nat} {i : Instr} (hw : i.wf n = true) : decode n (encode i) = .ok i := by
  have head : Laws.HeadOfEncode.Statement i := by
    cases i <;> exact Laws.HeadOfEncode.of_lookup rfl
  have noArg : i.takesArg = false → i.arg = 0 := by
    cases i <;> simp [Instr.takesArg, Instr.arg]
  obtain ⟨hlookup, harg⟩ := head
  have hzero : ¬ (i.takesArg = false ∧ i.arg ≠ 0) := fun ⟨ht, ha⟩ => ha (noArg ht)
  simp only [decode, hlookup]
  rw [harg, if_neg hzero, if_pos hw]

/-- A register's two parts, the upper one at the lower one's width (spec/00_scope.md R9). -/
theorem toNat_append_eq {m n : Nat} (x : BitVec m) (y : BitVec n) : (x ++ y).toNat = x.toNat * 2 ^ n + y.toNat := by
  rw [BitVec.toNat_append, ← Nat.shiftLeft_add_eq_or_of_lt y.isLt, Nat.shiftLeft_eq]

end Sys2Proof

namespace Sys2Proof.Machine

/-! ### The next word (10_state.md R31) -/

theorem runWord_encode {i : Instr} {s : State} (hw : i.wf s.cfg.nPins = true) : runWord (encode i) s = exec i s := by
  rw [runWord, decode_encode hw]

theorem step_of_nextWord {s : State} {i : Instr} (hf : s.fault = none) (hr : s.refused = none)
    (hc : s.cfg.wf = true) (hn : (nextWord s).1 = encode i) (hw : i.wf (nextWord s).2.cfg.nPins = true) :
    step s = exec i (nextWord s).2 := by
  rw [step, whenUnmarked_of_unmarked hf hr, if_pos hc, hn, runWord_encode hw]

theorem nextWord_of_cons {s : State} {w : Word} {ws : List Word} (ht : s.trace = w :: ws) :
    nextWord s = (w, { s with trace := ws }) := by
  simp [nextWord, ht, State.dropWord]

theorem nextWord_of_nil {s : State} (ht : s.trace = []) :
    nextWord s =
      (encode (chooseWord (Config.scheduleKind s.draws) (Config.scheduleArg s.draws) s), s.countDraw) := by
  simp [nextWord, ht]

/-- Settles O6: the trace's word is the next one, and decodes to its instruction. -/
theorem stepRunsTheDecodedInstruction : Obligations.StepRunsTheDecodedInstruction := by
  intro s i ws hf hr hc hw ht
  have hn := nextWord_of_cons ht
  rw [step_of_nextWord hf hr hc (by rw [hn]) (by rwa [hn]), hn]

/-! ### The free schedule (10_state.md R31, log entry 5) -/

theorem and_pinMask_lt (a : Byte) (n : Nat) : (a &&& pinMask n).toNat < 2 ^ n := by
  have hmask : (pinMask n).toNat ≤ 2 ^ n - 1 := by
    simpa [pinMask] using Nat.mod_le _ _
  have hand : (a &&& pinMask n).toNat ≤ (pinMask n).toNat := by
    simpa using Nat.and_le_right
  have := Nat.two_pow_pos n
  omega

theorem and_pinMask_eq {a : Byte} {n : Nat} (hn : n ≤ 8) (ha : a.toNat < 2 ^ n) : a &&& pinMask n = a := by
  have hpow : 2 ^ n ≤ 2 ^ 8 := Nat.pow_le_pow_right (by omega) hn
  have hmask : (pinMask n).toNat = 2 ^ n - 1 := by
    simp only [pinMask, BitVec.toNat_ofNat]
    omega
  apply BitVec.eq_of_toNat_eq
  rw [BitVec.toNat_and, hmask, Nat.and_two_pow_sub_one_of_lt_two_pow ha]

theorem and_one_eq {a : Byte} (ha : a.toNat ≤ 1) : a &&& 1 = a :=
  and_pinMask_eq (n := 1) (by omega) (by omega)

theorem and_one_le (a : Byte) : (a &&& 1).toNat ≤ 1 := Nat.le_of_lt_succ (and_pinMask_lt a 1)

theorem wf_of_mem_menu {i : Instr} {a : Byte} {n : Nat} (h : i ∈ menu a n) : i.wf n = true := by
  revert i
  simp only [menu, List.forall_mem_append, List.forall_mem_cons, Instr.wf, and_pinMask_lt, and_one_le]
  simp

/-- An instruction with a legal argument is on the menu of its own argument. -/
theorem mem_menu_arg {i : Instr} {n : Nat} (hn : n ≤ 8) (hw : i.wf n = true) : i ∈ menu i.arg n := by
  cases i with
  | ioLatch ff =>
    simp only [menu, Instr.arg, and_pinMask_eq hn (of_decide_eq_true hw)]
    simp
  | evSw b =>
    simp only [menu, Instr.arg, and_one_eq (of_decide_eq_true hw)]
    simp
  | _ => simp [menu, Instr.arg]

theorem mem_enabledWords_iff {i : Instr} {a : Byte} {s : State} :
    i ∈ enabledWords a s ↔ i ∈ menu a s.cfg.nPins ∧ enabled i s = true := List.mem_filter

/-- RS.POR is always among the choices, so a choice is always one of the enabled words
(70_reset_and_hazards.md R402). -/
theorem chooseWord_mem (k : Nat) (a : Byte) (s : State) : chooseWord k a s ∈ enabledWords a s := by
  have hpor : .rsPor a ∈ enabledWords a s := mem_enabledWords_iff.mpr ⟨by simp [menu], rfl⟩
  have hlt := Nat.mod_lt k (List.length_pos_of_mem hpor)
  rw [chooseWord, List.getD_eq_getElem _ _ hlt]
  exact List.getElem_mem hlt

theorem enabled_countDraw (i : Instr) (s : State) : enabled i s.countDraw = enabled i s := by
  cases i <;> rfl

/-- Settles O9: the chosen word is on the menu and enabled, and drawing it disables nothing. -/
theorem emptyTraceTakesAnEnabledWord : Obligations.EmptyTraceTakesAnEnabledWord := by
  intro s hf hr hc ht
  have hn := nextWord_of_nil ht
  generalize hi : chooseWord (Config.scheduleKind s.draws) (Config.scheduleArg s.draws) s = i at hn
  obtain ⟨hmenu, he⟩ := mem_enabledWords_iff.mp (hi ▸ chooseWord_mem ..)
  have hw := wf_of_mem_menu hmenu
  have hstep : step s = exec i s.countDraw := by
    rw [step_of_nextWord hf hr hc (by rw [hn]) (by rwa [hn]), hn]
  exact ⟨i, after i s.countDraw, hw, he, hstep, hstep.trans (exec_of_enabled (by rw [enabled_countDraw, he]))⟩

/-- Settles O10: the draw is the instruction's own argument, and the choice its position among the enabled words. -/
theorem everyEnabledWordMayBeNext : Obligations.EveryEnabledWordMayBeNext := by
  intro s i hc hw he
  obtain ⟨-, -, -, -, ⟨-, hn⟩, -⟩ := s.cfg.wf_iff.mp hc
  obtain ⟨k, hk, hget⟩ := List.getElem_of_mem (mem_enabledWords_iff.mpr ⟨mem_menu_arg hn hw, he⟩)
  refine ⟨k, i.arg, ?_⟩
  rw [chooseWord, Nat.mod_eq_of_lt hk, List.getD_eq_getElem _ _ hk, hget]

/-! ### The marks (10_state.md R60, R61) -/

theorem step_of_fault {s : State} {r : FaultReason} (hf : s.fault = some r) : step s = .fault (.faultMarked r) := by
  simp [step, whenUnmarked, hf]

/-- Settles O11: `whenUnmarked` answers a mark in place of the step, for the machine and for a single word. -/
theorem markedStatesHaveNoStep : Obligations.MarkedStatesHaveNoStep := by
  refine fun s => ⟨fun r => step_of_fault, fun r => step_of_refused, fun i s' h => ?_⟩
  obtain ⟨hf, hr, -⟩ := takeWord_next h
  exact ⟨hf, hr⟩

/-! ### The reachable states (70_reset_and_hazards.md R452) -/

/-- Only the two words with a restricted argument refuse, and only outside their legal set (30_encoding.md R117). -/
theorem after_refused_of_wf {i : Instr} {s : State} (hw : i.wf s.cfg.nPins = true) :
    (after i s).refused = s.refused := by
  cases hr : i.isReset with
  | true => exact (after_reset_frame s hr).2.2
  | false =>
    rcases (after_frame s hr).refused with h | ⟨ff, rfl⟩ | ⟨b, rfl⟩
    · exact h
    · simp [after, hw]
    · simp [after, hw]

theorem IsLaunch.refused {s : State} (h : IsLaunch s) : s.refused = none := by
  obtain ⟨hc, hs⟩ := h
  rw [hs]
  simp [State.launch, hc]

theorem BlockInv.of_steps {s s' : State} {i : Instr} (h : BlockInv s) (hs : Steps s i s') : BlockInv s' := by
  obtain ⟨-, -, -, hx⟩ := hs
  obtain ⟨he, rfl⟩ := exec_next hx
  exact h.after_of_enabled he

theorem Reachable.blockInv {s : State} (h : Reachable s) : BlockInv s := by
  induction h with
  | launch hl => exact .of_isLaunch hl
  | step i _ hs ih => exact ih.of_steps hs

theorem Steps.refused {s s' : State} {i : Instr} (h : Steps s i s') : s'.refused = none := by
  obtain ⟨-, hr, hw, hx⟩ := h
  obtain ⟨-, rfl⟩ := exec_next hx
  rw [after_refused_of_wf hw, hr]

theorem Reachable.refused {s : State} (h : Reachable s) : s.refused = none := by
  cases h with
  | launch hl => exact hl.refused
  | step i _ hs => exact hs.refused

/-- Settles O34: the invariant excludes the fault mark, and a decoded word's legal argument the refusal mark. -/
theorem reachableStatesAreUnmarked : Obligations.ReachableStatesAreUnmarked := fun _ h =>
  ⟨h.blockInv.noFault, h.refused, fun _ _ hs => ⟨(h.blockInv.of_steps hs).noFault, hs.refused⟩⟩

/-! ### The register view (10_state.md R62) -/

namespace BlockInv

variable {s : State} (h : BlockInv s)
include h

theorem gdir_lt : s.gdir.toNat < 2 ^ s.cfg.nPins := by
  obtain ⟨-, -, -, -, -, -, hpin, -⟩ := s.cfg.wf_iff.mp h.cfgWf
  rw [h.directions]
  split_ifs
  · exact Nat.two_pow_pos _
  · exact bit_lt hpin

theorem gpue_lt : s.gpue.toNat < 2 ^ s.cfg.nPins := by
  obtain ⟨-, -, -, -, -, -, -, hpin, -⟩ := s.cfg.wf_iff.mp h.cfgWf
  rw [h.pullUps]
  split_ifs
  · exact Nat.two_pow_pos _
  · exact bit_lt hpin

theorem gout_lt : s.gout.toNat < 2 ^ s.cfg.nPins := by
  rw [h.outputsZero]
  exact Nat.two_pow_pos _

/-- Every register fits its width: the byte registers by their type, the counter, the top and the port registers by the
invariant (10_state.md R44, R45, R52 to R55). -/
theorem regValue_lt (r : RegName) : regValue r s < 2 ^ regWidth r s.cfg := by
  cases r with
  | tcnt => exact lt_of_le_of_lt h.countBelowTop h.ttop_lt
  | ttop => exact h.ttop_lt
  | gdir => exact h.gdir_lt
  | gout => exact h.gout_lt
  | gpue => exact h.gpue_lt
  | gpin => exact h.latchPins
  | prevCell => exact Bool.toNat_lt _
  | cpusr | rstcause | wdtctl | clkctl | tctl | tie | tcmp | amux | actl | aresh | sampleCell => exact BitVec.isLt _

end BlockInv

/-- Settles O31: the widths are `BlockInv.regValue_lt`, and a packing is the sum of its parts (`toNat_append_eq`). -/
theorem registersPackTheirFields : Obligations.RegistersPackTheirFields := by
  intro s h
  refine ⟨h.regValue_lt, ?_⟩
  simp only [regValue, State.cpusr, State.rstcause, State.wdtctl, State.clkctl, State.tctl, State.tieReg, State.amux,
    State.actl, toNat_append_eq, BitVec.toNat_ofBool, BitVec.ofNat_eq_ofNat,
    BitVec.toNat_zero, true_and, and_true]
  omega

end Sys2Proof.Machine
end

section
/-! PROOF. The programs of both contexts (spec/20_memory.md R85): placing a word for the next step, with the fields its
guard names (log entry 4). -/

namespace Sys2Proof.Machine

/-! ### Selecting a phase (10_state.md R34 to R36) -/

theorem State.toPhase_eq_self {s : State} {p : Phase} (h : s.atPhase p = true) : s.toPhase p = s := by
  obtain ⟨hctx, hmpc⟩ := (s.atPhase_iff p).mp h
  rw [State.toPhase, ← hctx, ← hmpc]

theorem State.toHandler_eq_self {s : State} {p : HandlerPhase} (h : s.atHandler p = true) : s.toHandler p = s := by
  obtain ⟨hctx, hipc⟩ := (s.atHandler_iff p).mp h
  rw [State.toHandler, ← hctx, ← hipc]

@[simp] theorem State.atPhase_toPhase (s : State) (p : Phase) : (s.toPhase p).atPhase p = true := by
  simp [State.atPhase_iff]

@[simp] theorem State.atHandler_toHandler (s : State) (p : HandlerPhase) : (s.toHandler p).atHandler p = true := by
  simp [State.atHandler_iff]

/-! ### The fields a guard names where it holds -/

theorem enableFor_eq_self {i : Instr} {s : State} (h : enabled i s = true) : enableFor i s = s := by
  cases i with
  | suCli | suClrrc | suWdoff | inClk | inTcnt0 | inTcmp | inTtop | inTmode | inTirq | inAmux | inActl | inGdir
  | inGpue | mlSei | mlSettle | mlSeed | mlRead | mlMwrite | mlRecord => exact s.toPhase_eq_self h
  | mlCenter =>
    cases s
    obtain ⟨rfl, rfl, rfl, rfl⟩ := (enabled_mlCenter_iff _).mp h
    rfl
  | mlMread =>
    cases s
    obtain ⟨rfl, rfl, rfl⟩ := (enabled_mlMread_iff _).mp h
    rfl
  | mlSkip =>
    cases s
    obtain ⟨rfl, rfl, rfl, rfl⟩ := (enabled_mlSkip_iff _).mp h
    rfl
  | isEnter =>
    cases s
    obtain ⟨rfl, rfl, rfl, rfl⟩ := (enabled_isEnter_iff _).mp h
    rfl
  | isCapture => exact if_pos h
  | isReturn => exact s.toHandler_eq_self h
  | tmTick => exact if_neg ((enabled_tmTick_iff s).mp h)
  | adDone vv =>
    cases s
    obtain ⟨rfl, rfl⟩ := (enabled_adDone_iff vv _).mp h
    rfl
  | rsWdt v =>
    have hen : s.wdtEn = true := h
    rw [enableFor, ← hen]
  | ioLatch a | evSw a | rsPor a | rsOth a => rfl

/-! ### The fields a guard names where it fails -/

theorem enableFor_isCapture_of_disabled {s : State} (h : enabled .isCapture s = false) :
    enableFor .isCapture s = { s.toHandler .capture with alar := true } :=
  if_neg (Bool.eq_false_iff.mp h)

theorem enableFor_tmTick_of_disabled {s : State} (h : enabled .tmTick s = false) :
    enableFor .tmTick s = { s with tmode := tmodePwmTop, tcom := tcomNoninv, tcs := tcsRunning } :=
  if_pos (not_not.mp (of_decide_eq_false h))

/-! ### The guard holds after, and what no guard names stays -/

theorem enabled_enableFor (i : Instr) (s : State) : enabled i (enableFor i s) = true := by
  cases he : enabled i s with
  | true => rwa [enableFor_eq_self he]
  | false =>
    cases i with
    | suCli | suClrrc | suWdoff | inClk | inTcnt0 | inTcmp | inTtop | inTmode | inTirq | inAmux | inActl | inGdir
    | inGpue | mlSei | mlSettle | mlSeed | mlRead | mlMwrite | mlRecord => exact s.atPhase_toPhase _
    | mlCenter => exact (enabled_mlCenter_iff _).mpr ⟨rfl, rfl, rfl, rfl⟩
    | mlMread => exact (enabled_mlMread_iff _).mpr ⟨rfl, rfl, rfl⟩
    | mlSkip => exact (enabled_mlSkip_iff _).mpr ⟨rfl, rfl, rfl, rfl⟩
    | isEnter => exact (enabled_isEnter_iff _).mpr ⟨rfl, rfl, rfl, rfl⟩
    | isCapture =>
      rw [enableFor_isCapture_of_disabled he]
      exact s.atHandler_toHandler .capture
    | isReturn => exact s.atHandler_toHandler .ret
    | tmTick =>
      rw [enableFor_tmTick_of_disabled he]
      rfl
    | adDone vv => exact (enabled_adDone_iff vv _).mpr ⟨rfl, rfl⟩
    | rsWdt _ | ioLatch _ | evSw _ | rsPor _ | rsOth _ => rfl

/-- No guard names the configuration or a mark. -/
theorem enableFor_frame (i : Instr) (s : State) :
    (enableFor i s).cfg = s.cfg ∧ (enableFor i s).fault = s.fault ∧ (enableFor i s).refused = s.refused := by
  cases he : enabled i s with
  | true => simp only [enableFor_eq_self he, and_self]
  | false =>
    cases i with
    | isCapture => simp [enableFor_isCapture_of_disabled he]
    | tmTick => simp [enableFor_tmTick_of_disabled he]
    | _ => exact ⟨rfl, rfl, rfl⟩

/-! ### The placed word -/

theorem withFetchWord_encode {s : State} {i : Instr} (hw : i.wf s.cfg.nPins = true) :
    s.withFetchWord 16 (encode i).toNat = (enableFor i s).placeWord (encode i) := by
  have hword : BitVec.ofNat 16 ((encode i).toNat % 2 ^ 16) = encode i := by
    rw [BitVec.toNat_mod_cancel, BitVec.ofNat_toNat, BitVec.setWidth_eq]
  rw [State.withFetchWord, hword, placeToRun, decode_encode hw]

/-- Settles O7: the placed word stands first in the trace, so O6 gives the step, and no mark has been set. -/
theorem placedWordRuns : Obligations.PlacedWordRuns := by
  intro s i hf hr hc hw
  obtain ⟨hcfg, hfault, hrefused⟩ := enableFor_frame i s
  refine ⟨?_, enabled_enableFor i s, enableFor_eq_self⟩
  rw [withFetchWord_encode hw]
  exact stepRunsTheDecodedInstruction _ i (enableFor i s).trace (hfault.trans hf) (hrefused.trans hr)
    (by simpa [hcfg] using hc) (by simpa [hcfg] using hw) rfl

end Sys2Proof.Machine
end

section
/-! PROOF. The encoding (spec/30_encoding.md), part 1: the operation map (R112, R113) and what the decoder answers (R116
to R118). -/

namespace Sys2Proof

/-! ### The operation map (30_encoding.md R112) -/

/-- How many operations a unit has: they are numbered from 0 (30_encoding.md R112), and the OP values from there on are
reserved within the unit (R113). -/
def opCount : Nat → Nat
  | 1 => 3
  | 2 => 10
  | 3 => 9
  | 4 => 3
  | 5 | 6 | 7 | 8 => 1
  | 9 => 3
  | _ => 0

theorem Instr.op_lt_opCount (i : Instr) : i.op.toNat < opCount i.unit.toNat := by
  cases i <;> simp [Instr.op, Instr.unit, opCount]

theorem Instr.takesArg_eq_false_iff (i : Instr) : i.takesArg = false ↔ i.unit.toNat ≤ 5 := by
  cases i <;> simp [Instr.takesArg, Instr.unit]

theorem Instr.arg_eq_zero {i : Instr} (h : i.takesArg = false) : i.arg = 0 := by
  cases i <;> simp_all [Instr.takesArg, Instr.arg]

/-- Only IO.LATCH and EV.SW have an illegal argument (30_encoding.md R117). -/
theorem Instr.wf_eq_false_iff {n : Nat} {i : Instr} :
    i.wf n = false ↔
      (∃ ff : Byte, i = .ioLatch ff ∧ 2 ^ n ≤ ff.toNat) ∨ (∃ b : Byte, i = .evSw b ∧ 1 < b.toNat) := by
  cases i <;> simp [Instr.wf]

theorem Instr.wf_of_not_takesArg {i : Instr} (n : Nat) (h : i.takesArg = false) : i.wf n = true := by
  cases i <;> simp_all [Instr.takesArg, Instr.wf]

/-- The map finds an instruction exactly under its own fields: its UNIT, its OP, and its ARG where it takes one. -/
theorem lookup_eq_some_iff {u o : Nat} {a : Byte} {i : Instr} :
    lookup u o a = some i ↔ u = i.unit.toNat ∧ o = i.op.toNat ∧ (i.takesArg = true → a = i.arg) := by
  constructor
  · intro h
    unfold lookup at h
    split at h <;> cases h <;> exact ⟨rfl, rfl, by simp [Instr.takesArg, Instr.arg]⟩
  · rintro ⟨rfl, rfl, ha⟩
    cases i with
    | adDone _ | ioLatch _ | evSw _ | rsPor _ | rsWdt _ | rsOth _ => rw [ha rfl]; rfl
    | _ => rfl

theorem exists_lookup_of_lt_opCount {u o : Nat} (a : Byte) (h : o < opCount u) : ∃ i, lookup u o a = some i := by
  unfold opCount at h
  split at h
  case h_10 => omega
  all_goals interval_cases o <;> exact ⟨_, rfl⟩

theorem lookup_eq_none_iff {u o : Nat} {a : Byte} : lookup u o a = none ↔ opCount u ≤ o := by
  rw [← not_iff_not, Nat.not_le]
  constructor
  · intro hne
    obtain ⟨i, hi⟩ := Option.ne_none_iff_exists'.mp hne
    obtain ⟨rfl, rfl, -⟩ := lookup_eq_some_iff.mp hi
    exact i.op_lt_opCount
  · intro hlt
    obtain ⟨i, hi⟩ := exists_lookup_of_lt_opCount a hlt
    simp [hi]

/-- 30_encoding.md R113, unit by unit. -/
theorem opCount_le_iff (u o : Nat) :
    opCount u ≤ o ↔
      (u = 0 ∨ 10 ≤ u ∨ (u = 1 ∧ 3 ≤ o) ∨ (u = 2 ∧ 10 ≤ o) ∨ (u = 3 ∧ 9 ≤ o) ∨ (u = 4 ∧ 3 ≤ o)
        ∨ (5 ≤ u ∧ u ≤ 8 ∧ 1 ≤ o) ∨ (u = 9 ∧ 3 ≤ o)) := by
  unfold opCount
  split
  case h_10 =>
    simp only [imp_false] at *
    omega
  all_goals omega

/-- The operations of the units whose words carry no argument (30_encoding.md R112, R114). -/
theorem exists_lookup_takesArg_eq_false_iff {u o : Nat} {a : Byte} :
    (∃ i, lookup u o a = some i ∧ i.takesArg = false) ↔
      (u = 1 ∧ o ≤ 2) ∨ (u = 2 ∧ o ≤ 9) ∨ (u = 3 ∧ o ≤ 8) ∨ (u = 4 ∧ o ≤ 2) ∨ (u = 5 ∧ o = 0) := by
  have hcount := opCount_le_iff u o
  constructor
  · rintro ⟨i, hi, ht⟩
    obtain ⟨hu, ho, -⟩ := lookup_eq_some_iff.mp hi
    have hlt := i.op_lt_opCount
    have hle := i.takesArg_eq_false_iff.mp ht
    rw [← hu, ← ho] at hlt
    omega
  · intro h
    obtain ⟨i, hi⟩ := exists_lookup_of_lt_opCount (u := u) (o := o) a (by omega)
    obtain ⟨hu, -, -⟩ := lookup_eq_some_iff.mp hi
    exact ⟨i, hi, i.takesArg_eq_false_iff.mpr (by omega)⟩

/-! ### The decoder (30_encoding.md R118) -/

/-- A word put together from its own fields (30_encoding.md R110). -/
theorem unitOf_append_opOf_append_argOf (w : Word) : unitOf w ++ opOf w ++ argOf w = w := by
  unfold unitOf opOf argOf
  rw [BitVec.extractLsb'_append_extractLsb'_eq_extractLsb' (by rfl),
    BitVec.extractLsb'_append_extractLsb'_eq_extractLsb' (by rfl)]
  simp

/-- The operation the map has for a word's fields, whether its argument is legal or not (30_encoding.md R112). -/
def lookupWord (w : Word) : Option Instr := lookup (unitOf w).toNat (opOf w).toNat (argOf w)

variable {n : Nat} {w : Word} {i : Instr}

theorem decode_of_lookupWord_none (h : lookupWord w = none) : decode n w = .refuse .reservedWord := by
  rw [lookupWord] at h
  rw [decode, h]

theorem decode_of_lookupWord_some (h : lookupWord w = some i) :
    decode n w =
      if i.takesArg = false ∧ argOf w ≠ 0 then .refuse .nonzeroArg
      else if i.wf n then .ok i else .refuse .badArg := by
  rw [lookupWord] at h
  rw [decode, h]

theorem decode_eq_reservedWord_iff : decode n w = .refuse .reservedWord ↔ lookupWord w = none := by
  cases h : lookupWord w with
  | none => simp [decode_of_lookupWord_none h]
  | some i =>
    rw [decode_of_lookupWord_some h]
    split_ifs <;> simp

theorem decode_eq_nonzeroArg_iff :
    decode n w = .refuse .nonzeroArg ↔ ∃ i, lookupWord w = some i ∧ i.takesArg = false ∧ argOf w ≠ 0 := by
  cases h : lookupWord w with
  | none => simp [decode_of_lookupWord_none h]
  | some i =>
    rw [decode_of_lookupWord_some h]
    split_ifs <;> simp_all

theorem decode_eq_badArg_iff : decode n w = .refuse .badArg ↔ ∃ i, lookupWord w = some i ∧ i.wf n = false := by
  cases h : lookupWord w with
  | none => simp [decode_of_lookupWord_none h]
  | some i =>
    have hfree : i.takesArg = false → i.wf n = true := Instr.wf_of_not_takesArg n
    rw [decode_of_lookupWord_some h]
    split_ifs <;> simp_all

/-- 30_encoding.md R118: a word decodes exactly to the instruction with a legal argument that encodes to it. -/
theorem decode_eq_ok_iff : decode n w = .ok i ↔ encode i = w ∧ i.wf n = true := by
  constructor
  · intro h
    cases hl : lookupWord w with
    | none =>
      rw [decode_of_lookupWord_none hl] at h
      cases h
    | some j =>
      rw [decode_of_lookupWord_some hl] at h
      split_ifs at h with harg hw
      cases h
      obtain ⟨hu, ho, ha⟩ := lookup_eq_some_iff.mp hl
      have hfield : argOf w = i.arg := by
        cases ht : i.takesArg with
        | true => exact ha ht
        | false =>
          rw [Instr.arg_eq_zero ht]
          exact not_not.mp fun hne => harg ⟨ht, hne⟩
      rw [encode, ← BitVec.eq_of_toNat_eq hu, ← BitVec.eq_of_toNat_eq ho, ← hfield]
      exact ⟨unitOf_append_opOf_append_argOf w, hw⟩
  · rintro ⟨rfl, hw⟩
    exact decode_encode hw

/-! ### The argument of IO.LATCH (30_encoding.md R117) -/

theorem two_pow_le_toNat_iff (a : Byte) (n : Nat) :
    2 ^ n ≤ a.toNat ↔ ∃ j, n ≤ j ∧ j < 8 ∧ a.getLsbD j = true := by
  constructor
  · intro h
    obtain ⟨j, hj, hbit⟩ := Nat.exists_ge_and_testBit_of_ge_two_pow h
    rw [BitVec.testBit_toNat] at hbit
    exact ⟨j, hj, BitVec.lt_of_getLsbD hbit, hbit⟩
  · rintro ⟨j, hj, -, hbit⟩
    exact (Nat.pow_le_pow_right Nat.two_pos hj).trans (Nat.ge_two_pow_of_testBit hbit)

end Sys2Proof

namespace Sys2Proof.Machine

/-- 30_encoding.md R116, R117: stepping on a word that refuses sets its mark; the word is taken (log entry 10). -/
theorem step_of_decode_refuse {s : State} {w : Word} {ws : List Word} {r : RefusalReason} (hf : s.fault = none)
    (hr : s.refused = none) (hc : s.cfg.wf = true) (ht : s.trace = w :: ws) (hd : decode s.cfg.nPins w = .refuse r) :
    step s = .next { s with trace := ws, refused := some r } := by
  rw [step, whenUnmarked_of_unmarked hf hr, if_pos hc, nextWord_of_cons ht, runWord, hd]
  rfl

/-! ### The obligations -/

/-- Settles O1: the word's fields are the instruction's own. -/
theorem decodeOfEncodeIsTheInstruction : Obligations.DecodeOfEncodeIsTheInstruction := fun _ _ => decode_encode

/-- Settles O2: the map finds an instruction only under its own fields, and these make up its word. -/
theorem decodedWordIsTheInstructionsWord : Obligations.DecodedWordIsTheInstructionsWord :=
  fun _ _ _ => decode_eq_ok_iff.mp

/-- Settles O3: a word is reserved where the map has nothing, which is from the operation count of its unit on. -/
theorem reservedWordsRefuse : Obligations.ReservedWordsRefuse := by
  rintro n w u o rfl rfl
  refine ⟨?_, fun s ws hf hr hc ht hd => step_of_decode_refuse hf hr hc ht hd⟩
  rw [decode_eq_reservedWord_iff, lookupWord, lookup_eq_none_iff, opCount_le_iff]

/-- Settles O4: by the operation the map has for the word's fields, which has no argument or is one of the two with
a restricted one. -/
theorem illegalArgumentsRefuse : Obligations.IllegalArgumentsRefuse := by
  rintro n w u o rfl rfl
  refine ⟨?_, ?_, fun s ws r hf hr hc ht hd => step_of_decode_refuse hf hr hc ht hd⟩
  · rw [decode_eq_nonzeroArg_iff, ← exists_lookup_takesArg_eq_false_iff (a := argOf w)]
    constructor
    · rintro ⟨i, hi, ht, ha⟩
      exact ⟨ha, i, hi, ht⟩
    · rintro ⟨ha, i, hi, ht⟩
      exact ⟨i, hi, ht, ha⟩
  · rw [decode_eq_badArg_iff, ← two_pow_le_toNat_iff]
    constructor
    · rintro ⟨i, hi, hw⟩
      obtain ⟨hu, ho, ha⟩ := lookup_eq_some_iff.mp hi
      rcases Instr.wf_eq_false_iff.mp hw with ⟨ff, rfl, hff⟩ | ⟨b, rfl, hb⟩
      · exact .inr ⟨hu, ho, ha rfl ▸ hff⟩
      · exact .inl ⟨hu, ho, ha rfl ▸ hb⟩
    · rintro (⟨hu, ho, hb⟩ | ⟨hu, ho, hff⟩)
      · exact ⟨.evSw (argOf w), lookup_eq_some_iff.mpr ⟨hu, ho, fun _ => rfl⟩,
          Instr.wf_eq_false_iff.mpr (.inr ⟨_, rfl, hb⟩)⟩
      · exact ⟨.ioLatch (argOf w), lookup_eq_some_iff.mpr ⟨hu, ho, fun _ => rfl⟩,
          Instr.wf_eq_false_iff.mpr (.inl ⟨_, rfl, hff⟩)⟩

/-- Settles O5: the decoder runs on each of the words, which are closed. -/
theorem tabulatedWordsDecode : Obligations.TabulatedWordsDecode := by
  unfold Obligations.TabulatedWordsDecode
  decide

end Sys2Proof.Machine
end

section
/-! PROOF. The encoding (spec/30_encoding.md), part 2: the pseudo-operation `ml.iter` (R120 (d)), an iteration of the loop
(45_control_loop.md R302 to R307) with its end state. -/

namespace Sys2Proof.Machine

/-! ### Traces, word by word -/

theorem runTrace_nil {s : State} (hf : s.fault = none) (hr : s.refused = none) : runTrace [] s = .next s :=
  runTrace_next.mpr ⟨rfl, hf, hr⟩

theorem runTrace_cons {i : Instr} {is : List Instr} {s : State} (he : enabled i s = true) (hf : s.fault = none)
    (hr : s.refused = none) : runTrace (i :: is) s = runTrace is (after i s) := by
  rw [runTrace, takeWords, takeWord_of_unmarked hf hr, exec_of_enabled he, runTrace]

/-! ### The three iterations -/

section

variable {s : State} (hf : s.fault = none) (hr : s.refused = none) (hctx : s.ctx = .main) (hmpc : s.mpc = .read)
include hf hr hctx hmpc

theorem runTrace_iterSkip (hsw : switchState s.cfg s.gpin = true) (hprev : s.prev = true) :
    runTrace iterSkip s = .next { s with sw := true } := by
  have hread : enabled .mlRead s = true := (s.atPhase_iff _).mpr ⟨hctx, hmpc⟩
  have hskip : enabled .mlSkip (after .mlRead s) = true := (enabled_mlSkip_iff _).mpr ⟨hctx, rfl, hsw, hprev⟩
  have hrecord : enabled .mlRecord (after .mlSkip (after .mlRead s)) = true := (State.atPhase_iff _ _).mpr ⟨hctx, rfl⟩
  have hend : after .mlRecord (after .mlSkip (after .mlRead s)) = { s with sw := true } := by
    cases s
    simp_all [after, State.goto, State.writePrev]
  rw [iterSkip, runTrace_cons hread hf hr, runTrace_cons hskip hf hr, runTrace_cons hrecord hf hr, hend]
  exact runTrace_nil hf hr

theorem runTrace_iterCenter (hsw : switchState s.cfg s.gpin = true) (hprev : s.prev = false) :
    runTrace iterCenter s = .next { s.writeCmp (centerByte s.cfg) with sw := true, prev := true } := by
  have hread : enabled .mlRead s = true := (s.atPhase_iff _).mpr ⟨hctx, hmpc⟩
  have hcenter : enabled .mlCenter (after .mlRead s) = true := (enabled_mlCenter_iff _).mpr ⟨hctx, rfl, hsw, hprev⟩
  have hrecord : enabled .mlRecord (after .mlCenter (after .mlRead s)) = true :=
    (State.atPhase_iff _ _).mpr ⟨hctx, rfl⟩
  have hend : after .mlRecord (after .mlCenter (after .mlRead s)) =
      { s.writeCmp (centerByte s.cfg) with sw := true, prev := true } := by
    cases s
    simp_all [after, State.goto, State.writePrev, State.writeCmp, State.cmpHeld]
  rw [iterCenter, runTrace_cons hread hf hr, runTrace_cons hcenter hf hr, runTrace_cons hrecord hf hr, hend]
  exact runTrace_nil hf hr

theorem runTrace_iterManual (hsw : switchState s.cfg s.gpin = false) :
    runTrace iterManual s =
      .next { s.writeCmp (scale s.cfg s.sample) with sw := false, prev := false, t := s.sample } := by
  have hread : enabled .mlRead s = true := (s.atPhase_iff _).mpr ⟨hctx, hmpc⟩
  have hmread : enabled .mlMread (after .mlRead s) = true := (enabled_mlMread_iff _).mpr ⟨hctx, rfl, hsw⟩
  have hwrite : enabled .mlMwrite (after .mlMread (after .mlRead s)) = true := (State.atPhase_iff _ _).mpr ⟨hctx, rfl⟩
  have hrecord : enabled .mlRecord (after .mlMwrite (after .mlMread (after .mlRead s))) = true :=
    (State.atPhase_iff _ _).mpr ⟨hctx, rfl⟩
  have hend : after .mlRecord (after .mlMwrite (after .mlMread (after .mlRead s))) =
      { s.writeCmp (scale s.cfg s.sample) with sw := false, prev := false, t := s.sample } := by
    cases s
    simp_all [after, State.goto, State.writePrev, State.writeCmp, State.cmpHeld]
  rw [iterManual, runTrace_cons hread hf hr, runTrace_cons hmread hf hr, runTrace_cons hwrite hf hr,
    runTrace_cons hrecord hf hr, hend]
  exact runTrace_nil hf hr

end

/-- Settles O54: the latch and PREV select one of the three iterations, and its end state shows the fields. -/
theorem iterationRunsBackToRead : Obligations.IterationRunsBackToRead := by
  intro s hf hr hctx hmpc
  cases hsw : switchState s.cfg s.gpin with
  | false =>
    rw [mlIter, if_neg (by simp [hsw])]
    exact ⟨_, runTrace_iterManual hf hr hctx hmpc hsw, hmpc, hctx, rfl, rfl, rfl⟩
  | true =>
    rw [mlIter, if_pos hsw]
    cases hprev : s.prev with
    | false =>
      rw [if_neg (by simp [State.readPrev, hprev])]
      exact ⟨_, runTrace_iterCenter hf hr hctx hmpc hsw hprev, hmpc, hctx, rfl, rfl, rfl⟩
    | true =>
      rw [if_pos (by rw [State.readPrev, hprev])]
      exact ⟨_, runTrace_iterSkip hf hr hctx hmpc hsw hprev, hmpc, hctx, hprev, rfl, rfl⟩

end Sys2Proof.Machine
end

section
/-! PROOF. The startup handler (spec/40_startup.md): what its three words write (R140 to R142), and the watchdog, which
SU.WDOFF turns off and only a reset turns on again (R143). -/

namespace Sys2Proof.Machine

/-! ### The words of the handler (R140 to R142) -/

theorem State.wdtLocked_iff (s : State) :
    s.wdtLocked = true ↔ s.cfg.wdtOffNeedsRcfClear = true ∧ s.rcf.getLsbD 2 = true := by
  simp [State.wdtLocked, State.wdtCause]

theorem wdtLocked_of_rcf_eq_zero {s : State} (h : s.rcf = 0) : s.wdtLocked = false := by
  simp [State.wdtLocked, State.wdtCause, h]

section

variable {s : State} (hctx : s.ctx = .main) (hmpc : s.mpc = .suWdoff)
include hctx hmpc

theorem exec_suWdoff_of_locked (hl : s.wdtLocked = true) : exec .suWdoff s = .next { s with mpc := .inClk } := by
  have he : enabled .suWdoff s = true := (s.atPhase_iff _).mpr ⟨hctx, hmpc⟩
  rw [exec_of_enabled he, after, hl, Bool.and_true]
  rfl

theorem exec_suWdoff_of_unlocked (hl : s.wdtLocked = false) :
    exec .suWdoff s = .next { s with wdtEn := false, mpc := .inClk } := by
  have he : enabled .suWdoff s = true := (s.atPhase_iff _).mpr ⟨hctx, hmpc⟩
  rw [exec_of_enabled he, after, hl, Bool.and_false]
  rfl

end

/-- Settles O14: at its phase each word makes its change, and the lock decides between the two of SU.WDOFF. -/
theorem startupWordsDoTheirWrites : Obligations.StartupWordsDoTheirWrites := by
  intro s hctx
  refine ⟨fun hp => ?_, fun hp => ?_, fun hp hl => ?_, fun hp hl => ?_⟩
  · exact exec_of_enabled ((s.atPhase_iff _).mpr ⟨hctx, hp⟩)
  · exact exec_of_enabled ((s.atPhase_iff _).mpr ⟨hctx, hp⟩)
  · exact exec_suWdoff_of_locked hctx hp (s.wdtLocked_iff.mpr hl)
  · exact exec_suWdoff_of_unlocked hctx hp (Bool.eq_false_iff.mpr (mt s.wdtLocked_iff.mp hl))

/-! ### The watchdog (R143) -/

/-- SU.WDOFF is the one word besides the resets that writes the watchdog's enable, and it never sets it. -/
theorem after_wdtEn_of_disarmed {i : Instr} {s : State} (hr : i.isReset = false) (hoff : s.wdtEn = false) :
    (after i s).wdtEn = false := by
  rcases (after_frame s hr).wdtEn with hkeep | rfl
  · rw [hkeep, hoff]
  · simp [after, hoff]

theorem takeWords_wdtEn_of_disarmed {is : List Instr} {s s' : State} (hr : ∀ i ∈ is, i.isReset = false)
    (hoff : s.wdtEn = false) (h : takeWords is s = .next s') : s'.wdtEn = false :=
  takeWords_induction (P := fun s => s.wdtEn = false) (Q := fun i => i.isReset = false)
    (fun _ _ hi hp _ => after_wdtEn_of_disarmed hi hp) hr hoff h

/-- The phases before IN.CLK are those of the startup handler (10_state.md R34). -/
theorem Phase.startup_of_code_lt {p : Phase} (h : p.code < 3) : p = .suCli ∨ p = .suClrrc ∨ p = .suWdoff := by
  cases p with
  | suCli => exact .inl rfl
  | suClrrc => exact .inr (.inl rfl)
  | suWdoff => exact .inr (.inr rfl)
  | _ =>
    simp only [Phase.code] at h
    omega

/-- Settles O38: a reachable state meets SU.WDOFF with its causes cleared, so nothing locks it; no word but a reset arms
the watchdog; and the invariant has it off from IN.CLK on. -/
theorem watchdogStaysOffUntilAReset : Obligations.WatchdogStaysOffUntilAReset := by
  refine ⟨fun s hs hctx hmpc => ?_, fun is s s' hoff hr h => ?_, fun s hs harmed => ?_⟩
  · have hrcf := hs.blockInv.causeClear (by simp [hmpc, Phase.code])
    exact exec_suWdoff_of_unlocked hctx hmpc (wdtLocked_of_rcf_eq_zero hrcf)
  · have hoff' := takeWords_wdtEn_of_disarmed hr hoff h
    exact ⟨hoff', fun v => exec_of_disabled hoff'⟩
  · refine Phase.startup_of_code_lt (not_le.mp fun hcode => ?_)
    simp [hs.blockInv.watchdogOff hcode] at harmed

end Sys2Proof.Machine
end

section
/-! PROOF. The peripheral initialiser (spec/41_peripheral_init.md): what its words and ML.SEI write (R160 to R170), what
they leave (R171), and the conversions that complete before the enable (R172). -/

namespace Sys2Proof.Machine

/-! ### The words of the initialiser (R160 to R170) -/

theorem atPhase_of_main {s : State} {p : Phase} (hctx : s.ctx = .main) (hp : s.mpc = p) : s.atPhase p = true :=
  (s.atPhase_iff p).mpr ⟨hctx, hp⟩

section

variable {s : State} (hctx : s.ctx = .main) (hmpc : s.mpc = .inTcmp)
include hctx hmpc

theorem exec_inTcmp_of_held (hh : s.cmpHeld = true) :
    exec .inTcmp s = .next { s with tcmp := centerByte s.cfg, mpc := .inTtop } := by
  have he : enabled .inTcmp s = true := atPhase_of_main hctx hmpc
  rw [exec_of_enabled he, after, writeCmp_held hh]
  rfl

theorem exec_inTcmp_of_not_held (hh : s.cmpHeld = false) :
    exec .inTcmp s = .next { s with tcmp := centerByte s.cfg, tcmpa := centerByte s.cfg, mpc := .inTtop } := by
  have he : enabled .inTcmp s = true := atPhase_of_main hctx hmpc
  rw [exec_of_enabled he, after, writeCmp_now hh]
  rfl

end

/-- Settles O15: at its phase each word makes its change; whether the compare write is held decides between the two of
IN.TCMP. -/
theorem timerInitialiserWordsDoTheirWrites : Obligations.TimerInitialiserWordsDoTheirWrites := by
  intro s hctx
  exact ⟨fun hp => exec_of_enabled (atPhase_of_main hctx hp),
    fun hp => exec_of_enabled (atPhase_of_main hctx hp),
    fun hp hnow => exec_inTcmp_of_not_held hctx hp (Bool.eq_false_iff.mpr (mt (cmpHeld_iff s).mp hnow)),
    fun hp hheld => exec_inTcmp_of_held hctx hp ((cmpHeld_iff s).mpr hheld),
    fun hp => exec_of_enabled (atPhase_of_main hctx hp),
    fun hp => exec_of_enabled (atPhase_of_main hctx hp),
    fun hp => exec_of_enabled (atPhase_of_main hctx hp)⟩

/-- Settles O16: at its phase each word makes its change, and none of these tests a field. -/
theorem adcAndPinInitialiserWordsDoTheirWrites : Obligations.AdcAndPinInitialiserWordsDoTheirWrites := by
  intro s hctx
  refine ⟨fun hp => ?_, fun hp => ?_, fun hp => ?_, fun hp => ?_, fun hp => ?_⟩
  all_goals exact exec_of_enabled (atPhase_of_main hctx hp)

/-! ### What the initialiser leaves (R171) -/

/-- Settles O36: each clause of the invariant has its threshold at or before SEI, so it says what its unit holds
there. -/
theorem initialiserPostcondition : Obligations.InitialiserPostcondition := by
  intro s hs hp
  have h := hs.blockInv
  have hcode : s.mpc.code = 13 := by rw [hp, Phase.code]
  obtain ⟨htcmp, htcmpa⟩ := h.compareCenter (by omega) (by omega)
  have htop : s.ttop = s.cfg.pwmTop := by rw [h.top, if_neg (by omega)]
  obtain ⟨htmode, htcom, htcs⟩ := h.timerRuns (by omega)
  obtain ⟨-, -, halar⟩ := h.muxSet (by omega)
  obtain ⟨haen, harun, haate, haie, -⟩ := h.adcOn (by omega)
  have hgdir : s.gdir = bit s.cfg.pwmPin := by rw [h.directions, if_neg (by omega)]
  have hgpue : s.gpue = bit s.cfg.swPin := by rw [h.pullUps, if_neg (by omega)]
  obtain ⟨-, hgie⟩ := h.beforeSei (by omega)
  have hwdt := h.watchdogOff (by omega)
  rw [htcmp, htcmpa, centerByte_toNat h.cfgWf]
  exact ⟨rfl, rfl, htop, htmode, htcom, htcs, h.noTimerInterrupt, halar, haen, haate, haie, harun, hgdir, hgpue,
    h.outputsZero, hgie, hwdt⟩

/-! ### Conversions before the enable (R172) -/

theorem exec_isEnter_of_gie_eq_false {s : State} (hg : s.gie = false) : exec .isEnter s = .fault .noStep := by
  refine exec_of_disabled (Bool.eq_false_iff.mpr fun he => ?_)
  obtain ⟨-, hon, -⟩ := (enabled_isEnter_iff s).mp he
  simp [hg] at hon

theorem takeWords_adDone_gie {vs : List Byte} {s s' : State} (hg : s.gie = false)
    (h : takeWords (vs.map Instr.adDone) s = .next s') : s'.gie = false := by
  refine takeWords_induction (P := fun s => s.gie = false) (Q := fun i => ∃ v, i = .adDone v) ?_ ?_ hg h
  · rintro _ s ⟨v, rfl⟩ hg -
    exact hg
  · rintro i hi
    obtain ⟨v, -, rfl⟩ := List.mem_map.mp hi
    exact ⟨v, rfl⟩

/-- The last of a run of completions decides the request flag and the result, so several leave one request
(43_adc_sample_capture.md R231). -/
theorem takeWords_adDone_concat {vs : List Byte} {v : Byte} {s s' : State}
    (h : takeWords ((vs ++ [v]).map Instr.adDone) s = .next s') : s'.aif = true ∧ s'.aresh = v := by
  rw [List.map_append] at h
  obtain ⟨m, -, hlast⟩ := takeWords_append.mp h
  obtain ⟨e, hdone, hnil⟩ := takeWords_cons.mp hlast
  obtain ⟨-, -, -, rfl⟩ := takeWord_next hdone
  cases hnil
  exact ⟨rfl, rfl⟩

/-- Settles O37: the invariant has the global enable off up to SEI and no completion writes it; the request and the
result are those of the last completion. -/
theorem noInterruptBeforeTheEnable : Obligations.NoInterruptBeforeTheEnable := by
  intro s hs hcode
  obtain ⟨-, hgie⟩ := hs.blockInv.beforeSei hcode
  refine ⟨hgie, exec_isEnter_of_gie_eq_false hgie, fun vs s' hne h => ?_⟩
  have hgie' := takeWords_adDone_gie hgie h
  obtain ⟨ws, v, rfl⟩ := vs.eq_nil_or_concat'.resolve_left hne
  obtain ⟨haif, haresh⟩ := takeWords_adDone_concat h
  exact ⟨haif, hgie', by rw [haresh, List.getLast?_concat]⟩

end Sys2Proof.Machine
end

section
/-! PROOF. The PWM timer (spec/42_pwm_timer.md): the compare write (R190), the tick and its marks (R191, R197), the
compare value in effect (R192), the period and its pulse (R193, R194, R196), and the timer's own state (R198). -/

namespace Sys2Proof.Machine

/-! ### The compare write (R190) -/

/-- Settles O17: the two cases of the write are `writeCmp_held` and `writeCmp_now`, its callers are guarded changes of
state, and the frame names the writers of the register. -/
theorem compareWritesGoThroughWriteCmp : Obligations.CompareWritesGoThroughWriteCmp := by
  refine ⟨fun s v => ⟨fun h => ?_, fun h => ?_⟩, fun s s' => ⟨fun h => ?_, fun h => ?_, fun h => ?_⟩,
    fun i s s' h hr hne => ?_⟩
  · exact writeCmp_held ((cmpHeld_iff s).mpr h)
  · exact writeCmp_now (Bool.eq_false_iff.mpr (mt (cmpHeld_iff s).mp h))
  · exact (exec_next h).2
  · exact (exec_next h).2
  · exact (exec_next h).2
  · obtain ⟨-, rfl⟩ := exec_next h
    exact (after_frame s hr).tcmp.resolve_left hne

/-! ### The tick's two marks (R191, R197) -/

theorem reservedTimerField_iff (s : State) :
    reservedTimerField s = true ↔ 2 ≤ s.tmode.toNat ∨ 2 ≤ s.tcom.toNat ∨ 2 ≤ s.tcs.toNat := by
  simp [reservedTimerField, or_assoc]

theorem after_tmTick_of_reserved {s : State} (h : reservedTimerField s = true) :
    after .tmTick s = s.raise .timerFieldReserved :=
  if_pos h

theorem after_tmTick_of_unmodelled {s : State} (h : reservedTimerField s = false) (hm : s.tmode ≠ tmodePwmTop) :
    after .tmTick s = s.raise .timerModeUnmodelled := by
  simp [after, h, hm]

theorem after_tmTick_of_pwm {s : State} (h : reservedTimerField s = false) (hm : s.tmode = tmodePwmTop) :
    after .tmTick s = s.tick := by
  simp [after, h, hm]

/-- All that a tick can do. -/
theorem after_tmTick_cases (s : State) :
    (∃ r, after .tmTick s = s.raise r) ∨ after .tmTick s = s.tick := by
  cases h : reservedTimerField s with
  | true => exact .inl ⟨_, after_tmTick_of_reserved h⟩
  | false =>
    by_cases hm : s.tmode = tmodePwmTop
    · exact .inr (after_tmTick_of_pwm h hm)
    · exact .inl ⟨_, after_tmTick_of_unmodelled h hm⟩

/-- IN.TMODE and the resets are the only words that write the fields, and none of their values is reserved
(10_state.md R63). -/
theorem after_not_reservedTimerField (i : Instr) {s : State} (h : reservedTimerField s = false) :
    reservedTimerField (after i s) = false := by
  cases hr : i.isReset with
  | true =>
    cases i with
    | rsPor v | rsWdt v | rsOth v => rfl
    | _ => cases hr
  | false =>
    rcases (after_frame s hr).timerMode with ⟨hm, hcom, hcs⟩ | rfl
    · rwa [reservedTimerField, hm, hcom, hcs]
    · rfl

/-- Settles O19: where a field is reserved the tick is the mark, and no word makes one reserved. -/
theorem reservedTimerFieldsFault : Obligations.ReservedTimerFieldsFault := by
  refine ⟨fun s s' hres h => ?_, fun s _ hcs => ?_, fun i s s' h hres => ?_⟩
  · obtain ⟨-, rfl⟩ := exec_next h
    exact after_tmTick_of_reserved ((reservedTimerField_iff s).mpr hres)
  · exact ⟨_, exec_of_enabled ((enabled_tmTick_iff s).mpr hcs)⟩
  · obtain ⟨-, rfl⟩ := exec_next h
    have hkeep := after_not_reservedTimerField i (Bool.eq_false_iff.mpr (mt (reservedTimerField_iff s).mp hres))
    exact mt (reservedTimerField_iff _).mpr (Bool.eq_false_iff.mp hkeep)

/-! ### The tick in PWM mode (R191) -/

theorem tick_of_nextCount_eq_zero {s : State} (h : nextCount s = 0) :
    s.tick =
      { s with tcmpa := if s.cfg.cmpBuffered = true then s.tcmp else s.tcmpa, toc := true, tcnt := 0 } := by
  simp [State.tick, h]

theorem tick_of_nextCount_ne_zero {s : State} (h : nextCount s ≠ 0) :
    s.tick = { s with toc := if s.tcnt = s.tcmpa.toNat then false else s.toc, tcnt := nextCount s } := by
  simp [State.tick, h]

/-- Settles O18: the three changes of a tick, the last split by the new count and by whether the compare value in effect
is met. -/
theorem tickCountsAndDrivesTheOutput : Obligations.TickCountsAndDrivesTheOutput := by
  intro s hcs
  rw [exec_of_enabled ((enabled_tmTick_iff s).mpr hcs), ← reservedTimerField_iff, Bool.not_eq_true]
  refine ⟨fun hres => ?_, fun hres => ⟨fun hm => ?_, fun hm => ?_⟩⟩
  · rw [after_tmTick_of_reserved hres]
    rfl
  · rw [after_tmTick_of_unmodelled hres hm]
    rfl
  · rw [after_tmTick_of_pwm hres hm]
    rintro _ rfl
    refine ⟨fun h0 hb => ?_, fun h0 hb => ?_, fun h0 hmatch => ?_, fun h0 hmatch => ?_⟩
    · rw [tick_of_nextCount_eq_zero h0, if_pos hb]
    · rw [tick_of_nextCount_eq_zero h0, if_neg (by simp [hb])]
    · rw [tick_of_nextCount_ne_zero h0, if_pos hmatch]
      rfl
    · rw [tick_of_nextCount_ne_zero h0, if_neg hmatch]
      rfl

/-! ### The timer's own state (R198) -/

/-- Settles O39: a reachable tick meets no mark, so it is the PWM mode's; the invariant says when the clock runs. -/
theorem timerWritesOnlyItsOwnState : Obligations.TimerWritesOnlyItsOwnState := by
  refine ⟨fun s s' hs h => ?_, fun s hs => ⟨hs.blockInv.noTimerInterrupt, fun hcode => ?_, fun hcode => ?_⟩⟩
  · obtain ⟨he, rfl⟩ := exec_next h
    rw [hs.blockInv.after_tmTick he]
    rfl
  · obtain ⟨-, -, hcs, -⟩ := hs.blockInv.timerStopped hcode
    exact ⟨hcs, exec_of_disabled (Bool.eq_false_iff.mpr fun he => (enabled_tmTick_iff s).mp he hcs)⟩
  · obtain ⟨-, -, hcs⟩ := hs.blockInv.timerRuns hcode
    exact ⟨_, exec_of_enabled ((enabled_tmTick_iff s).mpr (by rw [hcs]; decide))⟩

/-! ### The compare value in effect (R192, R194) -/

theorem writeCmp_tcmpa_of_held {s : State} (v : Byte) (h : s.cmpHeld = true) : (s.writeCmp v).tcmpa = s.tcmpa := by
  rw [writeCmp_held h]

/-- While compare writes are held, only a tick that starts a period changes the value in effect. -/
theorem after_tcmpa_of_held {i : Instr} {s : State} (hheld : s.cmpHeld = true) (hr : i.isReset = false)
    (hne : (after i s).tcmpa ≠ s.tcmpa) : i = .tmTick ∧ (after i s).tcnt = 0 := by
  rcases (after_frame s hr).tcmpa with ha | rfl | rfl | rfl | rfl
  · exact absurd ha hne
  · exact absurd (writeCmp_tcmpa_of_held _ hheld) hne
  · exact absurd (writeCmp_tcmpa_of_held _ hheld) hne
  · exact absurd (writeCmp_tcmpa_of_held _ hheld) hne
  · refine ⟨rfl, ?_⟩
    rcases after_tmTick_cases s with ⟨r, ht⟩ | ht <;> rw [ht] at hne ⊢
    · exact absurd rfl hne
    · by_contra h0
      exact hne (by rw [tick_of_nextCount_ne_zero h0])

/-- A tick that sets no mark and starts a period puts the buffered value into effect. -/
theorem after_tmTick_tcmpa_of_start {s : State} (hb : s.cfg.cmpBuffered = true)
    (hf : (after .tmTick s).fault = none) (h0 : (after .tmTick s).tcnt = 0) : (after .tmTick s).tcmpa = s.tcmp := by
  rcases after_tmTick_cases s with ⟨r, ht⟩ | ht <;> rw [ht] at hf h0 ⊢
  · cases hf
  · rw [tick_of_nextCount_eq_zero h0, if_pos hb]

/-- Settles O40: with buffering every compare write is held, so a period start is the only change; without it the
invariant has the two values equal. -/
theorem bufferedCompareChangesOnlyAtAPeriodStart : Obligations.BufferedCompareChangesOnlyAtAPeriodStart := by
  refine ⟨fun i s s' hb hm hr h => ?_, fun s hs hb _ => hs.blockInv.compareSame hb⟩
  obtain ⟨-, rfl⟩ := exec_next h
  refine ⟨after_tcmpa_of_held ((cmpHeld_iff s).mpr ⟨hb, hm⟩) hr, ?_⟩
  rintro rfl
  exact after_tmTick_tcmpa_of_start hb

/-- Settles O42: the invariant has the top value, the range and the pulse, and R8 puts the range below the top. -/
theorem outputIsHighUpToTheCompareValue : Obligations.OutputIsHighUpToTheCompareValue := by
  intro s hs hcode
  have h := hs.blockInv
  obtain ⟨-, ⟨hhigh, -⟩, -⟩ := s.cfg.wf_iff.mp h.cfgWf
  have htop : s.ttop = s.cfg.pwmTop := by rw [h.top, if_neg (by omega)]
  obtain ⟨-, -, hlo, hhi⟩ := h.compareRange (by omega)
  exact ⟨htop, h.countBelowTop, by omega, by omega, fun hb => ⟨h.pulse hb hcode, hlo, hhi⟩⟩

/-! ### The period (R193) -/

/-- The timer counts in PWM mode and no mark stops it. -/
structure PwmRunning (s : State) : Prop where
  noFault : s.fault = none
  notRefused : s.refused = none
  mode : s.tmode = tmodePwmTop
  output : s.tcom = tcomNoninv
  clock : s.tcs = tcsRunning

theorem PwmRunning.runTrace_tmTick_cons {s : State} (h : PwmRunning s) (is : List Instr) :
    runTrace (.tmTick :: is) s = runTrace is s.tick := by
  have hres : reservedTimerField s = false := by
    rw [reservedTimerField, h.mode, h.output, h.clock]
    rfl
  have he : enabled .tmTick s = true := (enabled_tmTick_iff s).mpr (by rw [h.clock]; decide)
  rw [runTrace_cons he h.noFault h.notRefused, after_tmTick_of_pwm hres h.mode]

/-- The state `j` ticks later in the same period: the output has fallen if one of these counts met the compare value in
effect. -/
def State.ticksLater (s : State) (j : Nat) : State :=
  { s with
    tcnt := s.tcnt + j
    toc := s.toc && !decide (s.tcnt ≤ s.tcmpa.toNat ∧ s.tcmpa.toNat < s.tcnt + j) }

@[simp] theorem ticksLater_tcnt (s : State) (j : Nat) : (s.ticksLater j).tcnt = s.tcnt + j := rfl

@[simp] theorem ticksLater_ttop (s : State) (j : Nat) : (s.ticksLater j).ttop = s.ttop := rfl

theorem ticksLater_toc (s : State) (j : Nat) :
    (s.ticksLater j).toc = (s.toc && !decide (s.tcnt ≤ s.tcmpa.toNat ∧ s.tcmpa.toNat < s.tcnt + j)) := rfl

theorem ticksLater_zero (s : State) : s.ticksLater 0 = s := by
  have hnone : ¬ (s.tcnt ≤ s.tcmpa.toNat ∧ s.tcmpa.toNat < s.tcnt) := by omega
  simp [State.ticksLater, hnone]

theorem ticksLater_add (s : State) (i j : Nat) : (s.ticksLater i).ticksLater j = s.ticksLater (i + j) := by
  have hsplit : (s.tcnt ≤ s.tcmpa.toNat ∧ s.tcmpa.toNat < s.tcnt + (i + j)) ↔
      (s.tcnt ≤ s.tcmpa.toNat ∧ s.tcmpa.toNat < s.tcnt + i) ∨
        (s.tcnt + i ≤ s.tcmpa.toNat ∧ s.tcmpa.toNat < s.tcnt + i + j) := by omega
  simp only [State.ticksLater, hsplit, Bool.decide_or, Bool.not_or, Bool.and_assoc, Nat.add_assoc]

theorem nextCount_below_top {s : State} (hw : s.ttop < 2 ^ s.cfg.wT) (h : s.tcnt < s.ttop) :
    nextCount s = s.tcnt + 1 := by
  rw [nextCount, if_neg (by omega), Nat.mod_eq_of_lt (by omega)]

theorem tick_below_top {s : State} (hw : s.ttop < 2 ^ s.cfg.wT) (h : s.tcnt < s.ttop) :
    s.tick = s.ticksLater 1 := by
  have hn := nextCount_below_top hw h
  have hmet : (s.tcnt ≤ s.tcmpa.toNat ∧ s.tcmpa.toNat < s.tcnt + 1) ↔ s.tcnt = s.tcmpa.toNat := by omega
  rw [tick_of_nextCount_ne_zero (by omega), hn]
  simp only [State.ticksLater, hmet]
  by_cases hm : s.tcnt = s.tcmpa.toNat <;> simp [hm]

theorem PwmRunning.runTrace_ticks {s : State} {j : Nat} (h : PwmRunning s) (hw : s.ttop < 2 ^ s.cfg.wT)
    (hj : s.tcnt + j ≤ s.ttop) : runTrace (List.replicate j .tmTick) s = .next (s.ticksLater j) := by
  induction j generalizing s with
  | zero =>
    rw [ticksLater_zero]
    exact runTrace_nil h.noFault h.notRefused
  | succ j ih =>
    have h' : PwmRunning (s.ticksLater 1) := { h with }
    have hj' : (s.ticksLater 1).tcnt + j ≤ s.ttop := by
      rw [ticksLater_tcnt]
      omega
    rw [List.replicate_succ, h.runTrace_tmTick_cons, tick_below_top hw (by omega), ih h' hw hj', ticksLater_add,
      Nat.add_comm 1 j]

/-- From a period start the output is high exactly up to the compare value in effect. -/
theorem ticksLater_of_start {s : State} (j : Nat) (hcnt : s.tcnt = 0) (htoc : s.toc = true) :
    s.ticksLater j = { s with tcnt := j, toc := decide (j ≤ s.tcmpa.toNat) } := by
  have hhigh : (!decide (s.tcmpa.toNat < j)) = decide (j ≤ s.tcmpa.toNat) := by
    simp only [← decide_not, not_lt]
  simp [State.ticksLater, hcnt, htoc, hhigh]

/-- A whole period leads to the next period start. -/
theorem PwmRunning.runTrace_tmPeriod {s : State} (h : PwmRunning s) (hw : s.ttop < 2 ^ s.cfg.wT) (hcnt : s.tcnt = 0) :
    runTrace (tmPeriod s) s =
      .next { s with tcmpa := if s.cfg.cmpBuffered = true then s.tcmp else s.tcmpa, tcnt := 0, toc := true } := by
  have hrun := h.runTrace_ticks (j := s.ttop) hw (by omega)
  have htop : nextCount (s.ticksLater s.ttop) = 0 := if_pos (by simp [hcnt])
  have h' : PwmRunning (s.ticksLater s.ttop) := { h with }
  rw [tmPeriod, List.replicate_succ', runTrace_append]
  refine ⟨_, (runTrace_next.mp hrun).1, ?_⟩
  rw [h'.runTrace_tmTick_cons, tick_of_nextCount_eq_zero htop]
  exact runTrace_nil h.noFault h.notRefused

/-- Settles O41: `j` ticks from a period start are `State.ticksLater`, one more at the top starts the next period, and
IN.TMODE meets a counter at 0. -/
theorem periodHasOnePulseOfTheCompareValue : Obligations.PeriodHasOnePulseOfTheCompareValue := by
  refine ⟨fun s j hf hr hm hcom hcs hw hcnt htoc hj => ?_, fun s hf hr hm hcom hcs hw hcnt _ => ?_,
    fun s s' hs h => ?_⟩
  · have hrun : PwmRunning s := ⟨hf, hr, hm, hcom, hcs⟩
    rw [hrun.runTrace_ticks hw (by omega), ticksLater_of_start j hcnt htoc]
  · exact PwmRunning.runTrace_tmPeriod ⟨hf, hr, hm, hcom, hcs⟩ hw hcnt
  · obtain ⟨he, rfl⟩ := exec_next h
    obtain ⟨-, hp⟩ := (s.atPhase_iff _).mp he
    obtain ⟨-, -, -, hcnt, -⟩ := hs.blockInv.timerStopped (by simp [hp, Phase.code])
    exact ⟨hcnt, rfl, rfl, rfl, rfl, hs.blockInv.ttop_lt⟩

/-! ### A compare write within a period, without buffering (R196) -/

/-- Settles O43: the write is in effect at once, so the ticks after it compare with the written value. -/
theorem unbufferedWriteReshapesThePeriod : Obligations.UnbufferedWriteReshapesThePeriod := by
  intro s v j hf hr hb hm hcom hcs hw hj
  have hrun : PwmRunning (s.writeCmp v) := ⟨hf, hr, hm, hcom, hcs⟩
  have hnow : (s.writeCmp v).tcmpa = v := by rw [writeCmp_now (by simp [State.cmpHeld, hb])]
  have htoc : ((s.writeCmp v).ticksLater j).toc =
      (s.toc && !decide (s.tcnt ≤ v.toNat ∧ v.toNat < s.tcnt + j)) := by
    rw [ticksLater_toc, hnow, State.writeCmp_toc, State.writeCmp_tcnt]
  refine ⟨_, hrun.runTrace_ticks hw hj, rfl, fun hv => ?_, fun hlow => ?_, fun hv hhigh => ?_⟩
  · have hpassed : ¬ s.tcnt ≤ v.toNat := by omega
    simp [htoc, hpassed]
  · simp [htoc, hlow]
  · simp only [htoc, hhigh, hv, true_and, Bool.true_and, ← decide_not, not_lt]

end Sys2Proof.Machine
end

section
/-! PROOF. The converter and the sample-capture handler (spec/43_adc_sample_capture.md): the completed conversion (R230,
R231), the way into the handler (R242), what SAMPLE holds (R243), and the capture that follows every conversion in a fair
run (R244). -/

namespace Sys2Proof.Machine

/-! ### The completed conversion (R230, R231) -/

/-- Settles O20: a free-running conversion leaves the converter enabled and running, so a second one finds its guard and
overwrites the first one's result. -/
theorem conversionWritesResultAndRaisesTheRequest : Obligations.ConversionWritesResultAndRaisesTheRequest := by
  intro s v haen harun
  have hfirst : enabled (.adDone v) s = true := (enabled_adDone_iff v s).mpr ⟨haen, harun⟩
  refine ⟨exec_of_enabled hfirst, fun hf hr hate x => ?_⟩
  have hsecond : enabled (.adDone x) (after (.adDone v) s) = true := (enabled_adDone_iff x _).mpr ⟨haen, hate⟩
  have hend : after (.adDone x) (after (.adDone v) s) = { s with aresh := x, aif := true, arun := true } := by
    simp [after, State.setAif, hate]
  rw [runTrace_cons hfirst hf hr, runTrace_cons hsecond hf hr, hend]
  exact runTrace_nil hf hr

/-! ### What SAMPLE holds (R243) -/

theorem after_isCapture_of_leftAligned {s : State} (h : s.alar = true) :
    after .isCapture s = { s.writeSample s.aresh with ipc := .ret } := if_pos h

theorem takeWords_sample_of_no_capture {is : List Instr} {s s' : State}
    (hq : ∀ i ∈ is, i.isReset = false ∧ i ≠ .isCapture) (h : takeWords is s = .next s') : s'.sample = s.sample :=
  takeWords_induction (P := fun u => u.sample = s.sample) (Q := fun i => i.isReset = false ∧ i ≠ .isCapture)
    (fun _ u hi hu _ => ((after_frame u hi.1).sample.resolve_right hi.2).trans hu) hq rfl h

/-- Settles O51: no word but a capture or a reset writes the cell, so it keeps what the one capture stored. -/
theorem sampleHoldsTheLastCapture : Obligations.SampleHoldsTheLastCapture := by
  refine fun b x u hb => ⟨takeWords_sample_of_no_capture hb, fun hleft h => ?_⟩
  obtain ⟨m, hcapture, hrest⟩ := takeWords_cons.mp h
  obtain ⟨-, -, -, rfl⟩ := takeWord_next hcapture
  rw [takeWords_sample_of_no_capture hb hrest, after_isCapture_of_leftAligned hleft]
  rfl

/-! ### The way into the handler (R242) -/

/-- No word but a reset leads back over ML.SEI. -/
theorem after_code_ge_of_afterSei {i : Instr} {s : State} (he : enabled i s = true) (hr : i.isReset = false)
    (hcode : 14 ≤ s.mpc.code) : 14 ≤ (after i s).mpc.code := by
  have hi : i ≠ .mlSei := by
    rintro rfl
    simp [((s.atPhase_iff _).mp he).2, Phase.code] at hcode
  have := code_after_le_iff he hr (k := 13) rfl hi
  omega

theorem BlockInv.enabled_isEnter_iff_of_afterSei {s : State} (h : BlockInv s) (hcode : 14 ≤ s.mpc.code) :
    enabled .isEnter s = true ↔ s.aif = true ∧ s.ctx = .main := by
  obtain ⟨-, -, -, haie, -⟩ := h.adcOn (by omega)
  rw [enabled_isEnter_iff, h.afterSei hcode, haie]
  simp only [decide_eq_true_eq, true_and]
  tauto

/-- The interrupt context is left by the return and entered by the entry only (60_exceptions.md R350, R351). -/
theorem after_ctx_of_main {i : Instr} {s : State} (hr : i.isReset = false) (hi : i ≠ .isEnter) (hctx : s.ctx = .main) :
    (after i s).ctx = .main := by
  rcases (after_frame s hr).ctx with hkeep | rfl | rfl
  · rw [hkeep, hctx]
  · exact absurd rfl hi
  · rfl

/-- Settles O57: from SETTLE on the invariant has the converter on and `gie` equal to being in the main context, which
only the entry leaves. -/
theorem handlerCannotBeDisabled : Obligations.HandlerCannotBeDisabled := by
  intro s hs hcode
  have h := hs.blockInv
  refine ⟨?_, fun i s' hr hstep => ?_⟩
  · rw [← h.enabled_isEnter_iff_of_afterSei hcode]
    exact ⟨fun ⟨_, hx⟩ => (exec_next hx).1, fun he => ⟨_, exec_of_enabled he⟩⟩
  · have h' := h.of_steps hstep
    obtain ⟨-, -, -, hx⟩ := hstep
    obtain ⟨he, rfl⟩ := exec_next hx
    have hcode' := after_code_ge_of_afterSei he hr hcode
    obtain ⟨haen, -, -, haie, -⟩ := h'.adcOn (by omega)
    refine ⟨haie, haen, fun hon hoff => ?_⟩
    by_contra hi
    rw [h.afterSei hcode, decide_eq_true_eq] at hon
    rw [h'.afterSei hcode', decide_eq_false_iff_not] at hoff
    exact hoff (after_ctx_of_main hr hi hon)

/-! ### Runs without a reset (10_state.md R32, R33) -/

theorem IsRun.enabled_and_eq {st : Nat → State} {w : Nat → Instr} (h : IsRun st w) (n : Nat) :
    enabled (w n) (st n) = true ∧ st (n + 1) = after (w n) (st n) := by
  obtain ⟨-, -, -, hx⟩ := h.steps n
  exact exec_next hx

theorem IsRun.reachable {st : Nat → State} {w : Nat → Instr} (h : IsRun st w) (h0 : Reachable (st 0)) (n : Nat) :
    Reachable (st n) := by
  induction n with
  | zero => exact h0
  | succ n ih => exact .step (w n) ih (h.steps n)

theorem IsRun.code_ge_of_afterSei {st : Nat → State} {w : Nat → Instr} (h : IsRun st w)
    (hr : ∀ n, (w n).isReset = false) {n m : Nat} (hcode : 14 ≤ (st n).mpc.code) (hm : n ≤ m) :
    14 ≤ (st m).mpc.code := by
  induction m, hm using Nat.le_induction with
  | base => exact hcode
  | succ m _ ih =>
    obtain ⟨he, hst⟩ := h.enabled_and_eq m
    rw [hst]
    exact after_code_ge_of_afterSei he (hr m) ih

theorem Reachable.kindEnabled {s : State} {i : Instr} {k : StepKind} (hs : Reachable s) (hk : i.kind = some k)
    (hw : i.wf s.cfg.nPins = true) (he : enabled i s = true) : KindEnabled k s :=
  ⟨i, after i s, hk, hs.blockInv.noFault, hs.refused, hw, exec_of_enabled he⟩

/-- The rule for weak fairness (10_state.md R33): where the condition `P` keeps a kind enabled, and only a step of the
kind ends `P`, a step of the kind is taken while `P` holds. -/
theorem WeaklyFair.exists_taken_while {k : StepKind} {st : Nat → State} {w : Nat → Instr} (hfair : WeaklyFair k st w)
    {P : State → Prop} {n : Nat} (hn : P (st n)) (hen : ∀ m, n ≤ m → P (st m) → KindEnabled k (st m))
    (hkeep : ∀ m, n ≤ m → P (st m) → (w m).kind ≠ some k → P (st (m + 1))) :
    ∃ m, n ≤ m ∧ P (st m) ∧ (w m).kind = some k := by
  by_contra hnot
  push Not at hnot
  have hP : ∀ m, n ≤ m → P (st m) := fun m hm =>
    Nat.le_induction hn (fun m hm ih => hkeep m hm ih (hnot m hm ih)) m hm
  obtain ⟨m, hm, htaken⟩ := hfair n (fun m hm => hen m hm (hP m hm))
  exact hnot m hm (hP m hm) htaken

/-! ### Every conversion is captured, it or a newer one (R244) -/

theorem eq_isEnter_of_kind {i : Instr} (h : i.kind = some .interruptEntry) : i = .isEnter := by
  cases i with
  | isEnter => rfl
  | _ => cases h

/-- The handler's step at each of its phases (10_state.md R36). -/
def handlerWord : HandlerPhase → Instr
  | .capture => .isCapture
  | .ret => .isReturn

theorem enabled_handlerWord (p : HandlerPhase) (s : State) : enabled (handlerWord p) s = s.atHandler p := by
  cases p <;> rfl

theorem handlerWord_kind (p : HandlerPhase) : (handlerWord p).kind = some .interruptStep := by
  cases p <;> rfl

theorem handlerWord_wf (p : HandlerPhase) (n : Nat) : (handlerWord p).wf n = true := by
  cases p <;> rfl

theorem exists_handlerWord_of_kind {i : Instr} (h : i.kind = some .interruptStep) : ∃ p, i = handlerWord p := by
  cases i with
  | isCapture => exact ⟨.capture, rfl⟩
  | isReturn => exact ⟨.ret, rfl⟩
  | _ => cases h

theorem eq_handlerWord_of_atHandler {i : Instr} {s : State} {p : HandlerPhase} (he : enabled i s = true)
    (h : s.atHandler p = true) (hk : i.kind = some .interruptStep) : i = handlerWord p := by
  obtain ⟨q, rfl⟩ := exists_handlerWord_of_kind hk
  rw [enabled_handlerWord] at he
  rw [← ((s.atHandler_iff q).mp he).2, ((s.atHandler_iff p).mp h).2]

theorem ne_isEnter_of_atHandler {i : Instr} {s : State} {p : HandlerPhase} (he : enabled i s = true)
    (h : s.atHandler p = true) : i ≠ .isEnter := by
  rintro rfl
  obtain ⟨hmain, -⟩ := (enabled_isEnter_iff s).mp he
  simp [State.atHandler, hmain] at h

/-- The handler stays at its phase until it takes its own step: it is not entered again (60_exceptions.md R352). -/
theorem after_atHandler {i : Instr} {s : State} {p : HandlerPhase} (he : enabled i s = true) (hr : i.isReset = false)
    (h : s.atHandler p = true) (hk : i.kind ≠ some .interruptStep) : (after i s).atHandler p = true := by
  have henter := ne_isEnter_of_atHandler he h
  have hcapture : i ≠ .isCapture := by rintro rfl; exact hk rfl
  have hreturn : i ≠ .isReturn := by rintro rfl; exact hk rfl
  have f := after_frame s hr
  rw [State.atHandler, f.ctx.resolve_right (by simp [henter, hreturn]), f.ipc.resolve_right (by simp [henter, hcapture])]
  exact h

/-- Only the entry takes a pending request away. -/
theorem after_aif_of_pending {i : Instr} {s : State} (hr : i.isReset = false) (hi : i ≠ .isEnter) (h : s.aif = true) :
    (after i s).aif = true := by
  rcases (after_frame s hr).aif with hkeep | rfl | ⟨v, rfl⟩
  · rw [hkeep, h]
  · exact absurd rfl hi
  · rfl

/-- The result register holds the value of a conversion completed since any earlier one. -/
theorem IsRun.exists_adDone_of_aresh {st : Nat → State} {w : Nat → Instr} (h : IsRun st w)
    (hr : ∀ n, (w n).isReset = false) {n m : Nat} {v : Byte} (hn : w n = .adDone v) (hm : n < m) :
    ∃ j, n ≤ j ∧ j < m ∧ w j = .adDone (st m).aresh := by
  induction m, hm using Nat.le_induction with
  | base =>
    obtain ⟨-, hst⟩ := h.enabled_and_eq n
    exact ⟨n, le_rfl, n.lt_succ_self, by rw [hst, hn]; rfl⟩
  | succ m hm ih =>
    obtain ⟨-, hst⟩ := h.enabled_and_eq m
    rcases (after_frame (st m) (hr m)).aresh with hkeep | ⟨x, hx⟩
    · obtain ⟨j, hnj, hjm, hj⟩ := ih
      exact ⟨j, hnj, by omega, by rw [hst, hkeep, hj]⟩
    · exact ⟨m, by omega, m.lt_succ_self, by rw [hst, hx]; rfl⟩

section

variable {st : Nat → State} {w : Nat → Instr} (hfair : FairRun st w) (h0 : Reachable (st 0))
  (hr : ∀ n, (w n).isReset = false)
include hfair h0 hr

/-- The handler takes the step of its phase, and until then no entry takes a pending request away. -/
theorem exists_handlerStep {p : HandlerPhase} {n : Nat} (hn : (st n).atHandler p = true) :
    ∃ m, n ≤ m ∧ w m = handlerWord p ∧ ((st n).aif = true → (st m).aif = true) := by
  have hrun := hfair.1
  obtain ⟨m, hm, ⟨hp, hpend⟩, hk⟩ := (hfair.2.1 .interruptStep).exists_taken_while
    (P := fun s => s.atHandler p = true ∧ ((st n).aif = true → s.aif = true)) ⟨hn, id⟩
    (fun m _ hp => (hrun.reachable h0 m).kindEnabled (handlerWord_kind p) (handlerWord_wf p _)
      ((enabled_handlerWord p _).trans hp.1))
    (fun m _ ⟨hp, hpend⟩ hk => by
      obtain ⟨he, hst⟩ := hrun.enabled_and_eq m
      rw [hst]
      exact ⟨after_atHandler he (hr m) hp hk,
        fun haif => after_aif_of_pending (hr m) (ne_isEnter_of_atHandler he hp) (hpend haif)⟩)
  exact ⟨m, hm, eq_handlerWord_of_atHandler (hrun.enabled_and_eq m).1 hp hk, hpend⟩

theorem exists_capture_of_atCapture {n : Nat} (hn : (st n).atHandler .capture = true) :
    ∃ m, n ≤ m ∧ w m = .isCapture := by
  obtain ⟨m, hm, hw, -⟩ := exists_handlerStep hfair h0 hr hn
  exact ⟨m, hm, hw⟩

/-- A request raised in the handler is still pending after the return (43_adc_sample_capture.md R240 (a)). -/
theorem exists_pendingMain_of_atReturn {n : Nat} (hn : (st n).atHandler .ret = true) (haif : (st n).aif = true) :
    ∃ m, n ≤ m ∧ (st m).ctx = .main ∧ (st m).aif = true := by
  obtain ⟨m, hm, hw, hpend⟩ := exists_handlerStep hfair h0 hr hn
  obtain ⟨-, hst⟩ := hfair.1.enabled_and_eq m
  refine ⟨m + 1, by omega, ?_⟩
  rw [hst, hw]
  exact ⟨rfl, hpend haif⟩

theorem exists_entry_of_pendingMain {n : Nat} (hcode : 14 ≤ (st n).mpc.code) (hmain : (st n).ctx = .main)
    (haif : (st n).aif = true) : ∃ m, n ≤ m ∧ w m = .isEnter := by
  have hrun := hfair.1
  obtain ⟨m, hm, -, hk⟩ := (hfair.2.1 .interruptEntry).exists_taken_while
    (P := fun s => s.aif = true ∧ s.ctx = .main) ⟨haif, hmain⟩
    (fun m hm hp => by
      have hs := hrun.reachable h0 m
      have hge := hrun.code_ge_of_afterSei hr hcode hm
      exact hs.kindEnabled (i := .isEnter) rfl rfl ((hs.blockInv.enabled_isEnter_iff_of_afterSei hge).mpr hp))
    (fun m _ ⟨hpend, hctx⟩ hk => by
      have hi : w m ≠ .isEnter := fun hi => hk (by rw [hi]; rfl)
      obtain ⟨-, hst⟩ := hrun.enabled_and_eq m
      rw [hst]
      exact ⟨after_aif_of_pending (hr m) hi hpend, after_ctx_of_main (hr m) hi hctx⟩)
  exact ⟨m, hm, eq_isEnter_of_kind hk⟩

theorem exists_capture_of_pendingMain {n : Nat} (hcode : 14 ≤ (st n).mpc.code) (hmain : (st n).ctx = .main)
    (haif : (st n).aif = true) : ∃ m, n ≤ m ∧ w m = .isCapture := by
  obtain ⟨k, hk, henter⟩ := exists_entry_of_pendingMain hfair h0 hr hcode hmain haif
  obtain ⟨-, hst⟩ := hfair.1.enabled_and_eq k
  have hcap : (st (k + 1)).atHandler .capture = true := by
    rw [hst, henter]
    rfl
  obtain ⟨m, hm, hw⟩ := exists_capture_of_atCapture hfair h0 hr hcap
  exact ⟨m, by omega, hw⟩

/-- The context and the handler's phase say which steps are still to come before the capture. -/
theorem exists_capture_of_pending {n : Nat} (hcode : 14 ≤ (st n).mpc.code) (haif : (st n).aif = true) :
    ∃ m, n ≤ m ∧ w m = .isCapture := by
  cases hctx : (st n).ctx with
  | main => exact exists_capture_of_pendingMain hfair h0 hr hcode hctx haif
  | isr =>
    cases hipc : (st n).ipc with
    | capture => exact exists_capture_of_atCapture hfair h0 hr ((State.atHandler_iff _ _).mpr ⟨hctx, hipc⟩)
    | ret =>
      obtain ⟨k, hk, hmain, hpend⟩ :=
        exists_pendingMain_of_atReturn hfair h0 hr ((State.atHandler_iff _ _).mpr ⟨hctx, hipc⟩) haif
      have hge := hfair.1.code_ge_of_afterSei hr hcode hk
      obtain ⟨m, hm, hw⟩ := exists_capture_of_pendingMain hfair h0 hr hge hmain hpend
      exact ⟨m, by omega, hw⟩

end

/-- Settles O59: the conversion's request leads to a capture, and what a capture stores is the result of a conversion
completed since. -/
theorem everyConversionIsCapturedOrSuperseded : Obligations.EveryConversionIsCapturedOrSuperseded := by
  intro st w hfair h0 hr n v hcode hn
  have hrun := hfair.1
  obtain ⟨-, hst⟩ := hrun.enabled_and_eq n
  have haif : (st (n + 1)).aif = true := by
    rw [hst, hn]
    rfl
  have hcode' := hrun.code_ge_of_afterSei hr hcode n.le_succ
  obtain ⟨m, hm, hcapture⟩ := exists_capture_of_pending hfair h0 hr hcode' haif
  obtain ⟨j, hnj, hjm, hj⟩ := hrun.exists_adDone_of_aresh hr hn (Nat.lt_of_succ_le hm)
  obtain ⟨he, hstored⟩ := hrun.enabled_and_eq m
  rw [hcapture] at he hstored
  refine ⟨j, m, hnj, hjm, hcapture, ?_⟩
  rw [hj, hstored, (hrun.reachable h0 m).blockInv.after_isCapture he]
  rfl

end Sys2Proof.Machine
end

section
/-! PROOF. The input latch and the switch (spec/44_gpio_latch.md): the levels of the pads (R270, R271), what IO.LATCH
samples of them and EV.SW moves (R272, R274), and the switch as the latch shows it (R280, R281). -/

namespace Sys2Proof.Machine

/-! ### The pads of a reachable state (R270, R271) -/

/-- A port register set up with one pin at a point of the boot order has that pin's bit from there on, and no other. -/
theorem getLsbD_ite_bit {p : Nat} (hp : p < 8) (c : Prop) [Decidable c] (k : Nat) :
    (if c then 0 else bit p : Byte).getLsbD k = true ↔ ¬ c ∧ k = p := by
  split_ifs with hc
  · simp [hc]
  · simp [hc, getLsbD_bit hp]

namespace BlockInv

variable {s : State} (h : BlockInv s)
include h

theorem nPins_le : s.cfg.nPins ≤ 8 := by
  obtain ⟨-, -, -, -, ⟨-, hn⟩, -⟩ := s.cfg.wf_iff.mp h.cfgWf
  exact hn

theorem pwmPin_lt : s.cfg.pwmPin < s.cfg.nPins := by
  obtain ⟨-, -, -, -, -, -, hpin, -⟩ := s.cfg.wf_iff.mp h.cfgWf
  exact hpin

theorem swPin_lt : s.cfg.swPin < s.cfg.nPins := by
  obtain ⟨-, -, -, -, -, -, -, hpin, -⟩ := s.cfg.wf_iff.mp h.cfgWf
  exact hpin

theorem pwmPin_ne_swPin : s.cfg.pwmPin ≠ s.cfg.swPin := by
  obtain ⟨-, -, -, -, -, ⟨hne, -⟩, -⟩ := s.cfg.wf_iff.mp h.cfgWf
  exact hne

/-- From IN.GDIR on the PWM pin is an output, and no other pin ever is. -/
theorem gdir_getLsbD_iff (p : Nat) : s.gdir.getLsbD p = true ↔ 12 ≤ s.mpc.code ∧ p = s.cfg.pwmPin := by
  rw [h.directions, getLsbD_ite_bit (h.pwmPin_lt.trans_le h.nPins_le), not_le]
  rfl

/-- From IN.GPUE on the switch pin has its pull-up, and no other pin ever has. -/
theorem gpue_getLsbD_iff (p : Nat) : s.gpue.getLsbD p = true ↔ 13 ≤ s.mpc.code ∧ p = s.cfg.swPin := by
  rw [h.pullUps, getLsbD_ite_bit (h.swPin_lt.trans_le h.nPins_le), not_le]
  rfl

/-- R270 with the port's registers as the boot order sets them. -/
theorem pad_eq (p : Nat) :
    pad p s =
      if 12 ≤ s.mpc.code ∧ p = s.cfg.pwmPin then Level.ofBit s.toc
      else if p = s.cfg.swPin ∧ s.swc = .closedContact then .low
      else if 13 ≤ s.mpc.code ∧ p = s.cfg.swPin then .high
      else .floating := by
  simp only [pad, h.gdir_getLsbD_iff, h.gpue_getLsbD_iff]
  refine if_ctx_congr Iff.rfl (fun hout => if_pos ?_) (fun _ => rfl)
  obtain ⟨-, htcom, -⟩ := h.timerRuns (by omega)
  exact ⟨hout.2, htcom⟩

theorem pad_pwmPin_of_output (hcode : 12 ≤ s.mpc.code) : pad s.cfg.pwmPin s = Level.ofBit s.toc := by
  rw [h.pad_eq, if_pos ⟨hcode, rfl⟩]

theorem pad_pwmPin_of_input (hcode : s.mpc.code ≤ 11) : pad s.cfg.pwmPin s = .floating := by
  have hin : ¬ 12 ≤ s.mpc.code := by omega
  simp [h.pad_eq, hin, h.pwmPin_ne_swPin]

theorem pad_swPin_of_pullUp (hcode : 13 ≤ s.mpc.code) :
    pad s.cfg.swPin s = if s.swc = .closedContact then .low else .high := by
  simp [h.pad_eq, hcode, h.pwmPin_ne_swPin.symm]

theorem pad_swPin_of_open (hcode : s.mpc.code ≤ 12) (hopen : s.swc = .openContact) :
    pad s.cfg.swPin s = .floating := by
  have hpull : ¬ 13 ≤ s.mpc.code := by omega
  simp [h.pad_eq, hpull, hopen, h.pwmPin_ne_swPin.symm]

end BlockInv

/-- Settles O44: the two sides of IN.GDIR, and NONINV from IN.TMODE on. -/
theorem pwmPinCarriesTheOutputLatch : Obligations.PwmPinCarriesTheOutputLatch := by
  intro s hs
  have h := hs.blockInv
  refine ⟨h.pad_pwmPin_of_input, fun hcode => ?_⟩
  obtain ⟨-, htcom, -⟩ := h.timerRuns (by omega)
  exact ⟨htcom, h.pad_pwmPin_of_output hcode⟩

/-- Settles O23: R270 is `pad`, and in a reachable state `BlockInv.pad_eq` says which of its cases a pin is in. -/
theorem padLevels : Obligations.PadLevels := by
  refine ⟨fun _ _ => rfl, fun s p hs _ => ?_⟩
  have h := hs.blockInv
  refine ⟨fun hcode => ⟨?_, ?_, fun hpwm hsw => ?_⟩, fun hcode => ?_, fun hcode hin hopen => ?_⟩
  · rintro rfl
    exact h.pad_pwmPin_of_output (by omega)
  · rintro rfl
    exact h.pad_swPin_of_pullUp hcode
  · simp [h.pad_eq, hpwm, hsw]
  · have hout := mt (h.gdir_getLsbD_iff p).mp (by omega)
    exact Bool.eq_false_iff.mpr hout
  · have hout := mt (h.gdir_getLsbD_iff p).mpr (Bool.eq_false_iff.mp hin)
    have hpull : ¬ 13 ≤ s.mpc.code := by omega
    simp [h.pad_eq, hout, hopen, hpull]

/-! ### The latch and the environment's switch (R272, R274) -/

theorem latchedLevel_of_floating {s : State} {p : Nat} (ff : Byte) (hp : pad p s = .floating) :
    latchedLevel ff s p = ff.getLsbD p := by
  rw [latchedLevel, hp]

theorem getLsbD_latchValue (ff : Byte) {s : State} (hn : s.cfg.nPins ≤ 8) (p : Nat) :
    (latchValue ff s).getLsbD p = (decide (p < s.cfg.nPins) && latchedLevel ff s p) :=
  getLsbD_gatherBits _ hn p

theorem after_ioLatch_of_wf {s : State} {ff : Byte} (hw : (Instr.ioLatch ff).wf s.cfg.nPins = true) :
    after (.ioLatch ff) s = { s with gpin := latchValue ff s } :=
  if_pos hw

theorem after_ioLatch_of_not_wf {s : State} {ff : Byte} (hw : ¬ (Instr.ioLatch ff).wf s.cfg.nPins = true) :
    after (.ioLatch ff) s = s.refuse .badArg :=
  if_neg hw

theorem after_evSw_of_not_wf {s : State} {b : Byte} (hw : ¬ (Instr.evSw b).wf s.cfg.nPins = true) :
    after (.evSw b) s = s.refuse .badArg :=
  if_neg hw

/-- Settles O22: both words are always enabled, and whether the argument is legal decides between the write and the
mark; the bits of the written latch are `getLsbD_latchValue`. -/
theorem latchSamplesThePadsAndTheSwitchMoves : Obligations.LatchSamplesThePadsAndTheSwitchMoves := by
  intro s a
  have hlatch : exec (.ioLatch a) s = .next (after (.ioLatch a) s) := exec_of_enabled rfl
  refine ⟨fun ha hn => ?_, fun ha => ?_, rfl, rfl, fun ha => ?_⟩
  · rw [after_ioLatch_of_wf (decide_eq_true ha)] at hlatch
    refine ⟨latchValue a s, hlatch, fun p hp => ?_, fun p hp => ?_⟩
    · rw [getLsbD_latchValue a hn, decide_eq_true hp, Bool.true_and]
      rfl
    · rw [getLsbD_latchValue a hn, decide_eq_false (not_lt.mpr hp), Bool.false_and]
  · rw [hlatch, after_ioLatch_of_not_wf (mt of_decide_eq_true ha)]
    rfl
  · rw [exec_of_enabled (i := .evSw a) rfl, after_evSw_of_not_wf (mt of_decide_eq_true (not_le.mpr ha))]
    rfl

/-! ### The switch as the latch shows it (R280, R281) -/

theorem and_bit_ne_zero_iff {p : Nat} (hp : p < 8) (g : Byte) : g &&& bit p ≠ 0 ↔ g.getLsbD p = true := by
  have hbit : bit p = BitVec.twoPow 8 p := BitVec.eq_of_toNat_eq (BitVec.toNat_twoPow 8 p).symm
  have hne : BitVec.twoPow 8 p ≠ 0 := ne_of_apply_ne BitVec.toNat (by simp [BitVec.toNat_twoPow_of_lt hp])
  rw [hbit, BitVec.and_twoPow]
  split_ifs with hg
  · exact iff_of_true hne hg
  · exact iff_of_false (not_not_intro rfl) hg

theorem switchState_eq {c : Cfg} (hc : c.wf = true) (g : Byte) : switchState c g = g.getLsbD c.swPin := by
  obtain ⟨-, -, -, -, ⟨-, hn⟩, -, -, hpin, -⟩ := c.wf_iff.mp hc
  simp only [switchState, and_bit_ne_zero_iff (hpin.trans_le hn), Bool.decide_eq_true]

/-- The environment may draw either level for any pin of the port (30_encoding.md R117). -/
theorem exists_legal_draw {p n : Nat} (hp : p < n) (hn : n ≤ 8) (b : Bool) :
    ∃ ff : Byte, (Instr.ioLatch ff).wf n = true ∧ ff.getLsbD p = b := by
  cases b with
  | false => exact ⟨0, decide_eq_true (Nat.two_pow_pos n), BitVec.getLsbD_zero⟩
  | true => exact ⟨bit p, decide_eq_true (bit_lt hp), (getLsbD_bit (hp.trans_le hn)).trans (decide_eq_true rfl)⟩

/-- The decode of a fresh latch is the level sampled on the switch pin. -/
theorem BlockInv.switchState_after_ioLatch {s : State} (h : BlockInv s) {ff : Byte}
    (hw : (Instr.ioLatch ff).wf s.cfg.nPins = true) :
    switchState (after (.ioLatch ff) s).cfg (after (.ioLatch ff) s).gpin = latchedLevel ff s s.cfg.swPin := by
  rw [after_ioLatch_of_wf hw, switchState_eq h.cfgWf, getLsbD_latchValue ff h.nPins_le, decide_eq_true h.swPin_lt,
    Bool.true_and]

/-- Settles O45: a latch takes the switch pin's level, which the pull-up fixes from IN.GPUE on; before it an open switch
floats, so the draw's bit decides. -/
theorem switchLatchesAsCenterOrManual : Obligations.SwitchLatchesAsCenterOrManual := by
  refine ⟨fun _ g hc => switchState_eq hc g, fun s s' ff hs hcode hstep => ?_, fun s b hs hcode hopen => ?_⟩
  · have h := hs.blockInv
    obtain ⟨-, -, hw, hx⟩ := hstep
    obtain ⟨-, rfl⟩ := exec_next hx
    rw [h.switchState_after_ioLatch hw, latchedLevel, h.pad_swPin_of_pullUp hcode]
    cases s.swc with
    | closedContact => exact ⟨by decide, rfl⟩
    | openContact => exact ⟨by decide, rfl⟩
  · have h := hs.blockInv
    obtain ⟨ff, hw, hbit⟩ := exists_legal_draw h.swPin_lt h.nPins_le b
    refine ⟨ff, _, ⟨h.noFault, hs.refused, hw, exec_of_enabled rfl⟩, ?_⟩
    rw [h.switchState_after_ioLatch hw, latchedLevel_of_floating ff (h.pad_swPin_of_open hcode hopen), hbit]

end Sys2Proof.Machine
end

section
/-! PROOF. The control loop (spec/45_control_loop.md), part 1: its words (R300 to R307, R312), the scaling function (R308
to R310) and the range of the compare register (R311). -/

namespace Sys2Proof.Machine

/-! ### The words of the loop (R300 to R307) -/

section

variable {s : State} (hctx : s.ctx = .main) (hmpc : s.mpc = .decide)
include hctx hmpc

theorem enabled_mlCenter_of_decide : enabled .mlCenter s = (s.sw && !s.prev) := by
  simp [enabled, atPhase_of_main hctx hmpc]

theorem enabled_mlMread_of_decide : enabled .mlMread s = !s.sw := by
  simp [enabled, atPhase_of_main hctx hmpc]

theorem enabled_mlSkip_of_decide : enabled .mlSkip s = (s.sw && s.prev) := by
  simp [enabled, atPhase_of_main hctx hmpc]

end

/-- Settles O24: at its phase each word makes its change; at DECIDE the switch and PREV enable one of three. -/
theorem loopWordsDoTheirWrites : Obligations.LoopWordsDoTheirWrites := by
  intro s hctx
  exact ⟨fun hp => exec_of_enabled (atPhase_of_main hctx hp),
    fun hp => exec_of_enabled (atPhase_of_main hctx hp),
    fun hp => exec_of_enabled (atPhase_of_main hctx hp),
    fun hp hsw hprev => exec_of_enabled ((enabled_mlCenter_iff s).mpr ⟨hctx, hp, hsw, hprev⟩),
    fun hp hsw => exec_of_enabled ((enabled_mlMread_iff s).mpr ⟨hctx, hp, hsw⟩),
    fun hp hsw hprev => exec_of_enabled ((enabled_mlSkip_iff s).mpr ⟨hctx, hp, hsw, hprev⟩),
    fun hp => exec_of_enabled (atPhase_of_main hctx hp),
    fun hp => exec_of_enabled (atPhase_of_main hctx hp)⟩

/-- Settles O46: at DECIDE the guards of the three words are three exclusive conditions on the switch and PREV. -/
theorem exactlyOneDecideWordIsEnabled : Obligations.ExactlyOneDecideWordIsEnabled := by
  intro s hctx hmpc
  have hcenter := enabled_mlCenter_of_decide hctx hmpc
  have hmread := enabled_mlMread_of_decide hctx hmpc
  have hskip := enabled_mlSkip_of_decide hctx hmpc
  refine ⟨fun hsw => ?_, fun hsw hprev => ?_, fun hsw hprev => ?_⟩
  · rw [hsw] at hcenter hmread hskip
    exact ⟨⟨_, exec_of_enabled hmread⟩, exec_of_disabled hcenter, exec_of_disabled hskip⟩
  · rw [hsw, hprev] at hcenter hskip
    rw [hsw] at hmread
    exact ⟨⟨_, exec_of_enabled hcenter⟩, exec_of_disabled hmread, exec_of_disabled hskip⟩
  · rw [hsw, hprev] at hcenter hskip
    rw [hsw] at hmread
    exact ⟨⟨_, exec_of_enabled hskip⟩, exec_of_disabled hmread, exec_of_disabled hcenter⟩

/-! ### The scaling function (R308, R309) -/

theorem pwmRange_le {c : Cfg} (hc : c.wf = true) : c.pwmHigh - c.pwmLow ≤ 255 := by
  obtain ⟨⟨-, -, hhigh⟩, -⟩ := c.wf_iff.mp hc
  omega

/-- The scaled sample fits in 8 bits, so it is R308's natural number. -/
theorem scale_toNat {c : Cfg} (hc : c.wf = true) (x : Byte) :
    (scale c x).toNat = c.pwmLow + x.toNat * (c.pwmHigh - c.pwmLow) / 255 := by
  obtain ⟨⟨hlc, hch, hhigh⟩, -⟩ := c.wf_iff.mp hc
  have hquot : x.toNat * (c.pwmHigh - c.pwmLow) / 255 ≤ c.pwmHigh - c.pwmLow :=
    Nat.div_le_of_le_mul (Nat.mul_le_mul_right _ (Nat.le_of_lt_succ x.isLt))
  simp only [scale, BitVec.toNat_ofNat]
  omega

theorem cast_pwmRange {c : Cfg} (hc : c.wf = true) :
    ((c.pwmHigh - c.pwmLow : ℕ) : ℚ) = (c.pwmHigh : ℚ) - (c.pwmLow : ℚ) := by
  obtain ⟨⟨hlc, hch, -⟩, -⟩ := c.wf_iff.mp hc
  exact Nat.cast_sub (hlc.trans hch)

/-- R309's reason: a quotient by 255 that is no integer is at least 1/255 below the next one, so an error below 1/255
does not reach it. -/
theorem floor_eq_div_of_near {m : ℕ} {q : ℚ} (hnear : |q - (m : ℚ) / 255| < 1 / 255)
    (hexact : 255 ∣ m → q = (m : ℚ) / 255) : ⌊q⌋ = ((m / 255 : ℕ) : ℤ) := by
  obtain ⟨hlow, hhigh⟩ := abs_sub_lt_iff.mp hnear
  have hsplit : (m : ℚ) = 255 * (m / 255 : ℕ) + (m % 255 : ℕ) := by exact_mod_cast (Nat.div_add_mod m 255).symm
  rw [Int.floor_eq_iff, Int.cast_natCast]
  by_cases hdvd : 255 ∣ m
  · rw [Nat.mod_eq_zero_of_dvd hdvd, Nat.cast_zero] at hsplit
    rw [hexact hdvd]
    constructor <;> linarith
  · have hone : (1 : ℚ) ≤ (m % 255 : ℕ) := by exact_mod_cast Nat.pos_of_ne_zero (mt Nat.dvd_of_mod_eq_zero hdvd)
    have hrem : ((m % 255 : ℕ) : ℚ) + 1 ≤ 255 := by exact_mod_cast Nat.mod_lt m (by norm_num)
    constructor <;> linarith

/-- Settles O28: the floor of the rounded quotient is the quotient of R308. -/
theorem scaleEqualsTheRoundedQuotient : Obligations.ScaleEqualsTheRoundedQuotient := by
  intro c x q hc hnear hexact
  rw [scale_toNat hc, floor_eq_div_of_near hnear hexact, Nat.cast_add, add_comm]

/-- Settles O26: the exact quotient is one that errs by nothing. -/
theorem scaleIsTheExactQuotient : Obligations.ScaleIsTheExactQuotient := by
  intro c x hc
  refine ⟨scale_toNat hc x, ?_, fun hlow hhigh => ?_⟩
  · have hfloor := scaleEqualsTheRoundedQuotient c x _ hc (by norm_num) fun _ => rfl
    rwa [Nat.cast_mul, cast_pwmRange hc] at hfloor
  · rw [scale_toNat hc, hlow, hhigh, mul_comm]

/-! ### The image of the scaling function (R310) -/

/-- The smallest sample that reaches a value of a range of at most 255. -/
theorem exists_sample_of_le {d j : ℕ} (hd : d ≤ 255) (hj : j ≤ d) : ∃ x : Byte, x.toNat * d / 255 = j := by
  obtain rfl | hpos := d.eq_zero_or_pos
  · exact ⟨0, by simp; omega⟩
  obtain ⟨n, hn⟩ : ∃ n, n = (255 * j + (d - 1)) / d := ⟨_, rfl⟩
  have hlow : 255 * j ≤ n * d := by
    have := Nat.lt_div_mul_add hpos (a := 255 * j + (d - 1))
    rw [← hn] at this
    omega
  have hhigh : n * d ≤ 255 * j + (d - 1) := hn ▸ Nat.div_mul_le_self _ _
  have hbyte : n < 256 := Nat.lt_of_mul_lt_mul_right (a := d) (by omega)
  refine ⟨BitVec.ofNat 8 n, ?_⟩
  rw [BitVec.toNat_ofNat, Nat.mod_eq_of_lt hbyte]
  omega

theorem scale_mono {c : Cfg} (hc : c.wf = true) {x y : Byte} (hxy : x.toNat ≤ y.toNat) :
    (scale c x).toNat ≤ (scale c y).toNat := by
  rw [scale_toNat hc, scale_toNat hc]
  gcongr

/-- Only the sample 255 reaches the top of a range below 255 that is not empty (log entry 18). -/
theorem eq_255_of_scale_eq_high {c : Cfg} (hc : c.wf = true) (hne : c.pwmLow < c.pwmHigh) {x : Byte}
    (hx : (scale c x).toNat = c.pwmHigh) : x = 255 := by
  rw [scale_toNat hc] at hx
  have hle : 255 * (c.pwmHigh - c.pwmLow) ≤ x.toNat * (c.pwmHigh - c.pwmLow) := by omega
  have hmax : 255 ≤ x.toNat := Nat.le_of_mul_le_mul_right hle (by omega)
  exact BitVec.eq_of_toNat_eq (le_antisymm (Nat.le_of_lt_succ x.isLt) hmax)

theorem scale_succ_le {c : Cfg} (hc : c.wf = true) {x y : Byte} (hxy : y.toNat = x.toNat + 1) :
    (scale c y).toNat ≤ (scale c x).toNat + 1 := by
  have hrange := pwmRange_le hc
  rw [scale_toNat hc, scale_toNat hc, hxy, Nat.succ_mul]
  omega

/-- Settles O27: R308's quotient at the end points, and the lemmas of this part for the rest. -/
theorem scaleMapsOntoTheRange : Obligations.ScaleMapsOntoTheRange := by
  intro c hc
  obtain ⟨⟨hlc, hch, -⟩, -⟩ := c.wf_iff.mp hc
  refine ⟨by simp [scale_toNat hc], ?_, fun x y => scale_mono hc, scale_mem_range hc,
    fun _ hne x => eq_255_of_scale_eq_high hc hne, fun x y => scale_succ_le hc, fun k hlow hhigh => ?_,
    fun hlow hhigh => ?_⟩
  · have hmax : (255 : Byte).toNat = 255 := rfl
    rw [scale_toNat hc, hmax]
    omega
  · obtain ⟨x, hx⟩ := exists_sample_of_le (pwmRange_le hc) (j := k - c.pwmLow) (by omega)
    refine ⟨x, ?_⟩
    rw [scale_toNat hc, hx]
    omega
  · simp only [scale, hlow, hhigh]
    decide

/-! ### The range of the compare register (R311) -/

/-- Settles O35: the invariant's clauses on both sides of IN.TCMP. -/
theorem compareStaysInTheServoSafeRange : Obligations.CompareStaysInTheServoSafeRange := by
  intro s hs
  have h := hs.blockInv
  refine ⟨h.compareRange, fun hcode => ?_⟩
  obtain ⟨htcmp, htcmpa⟩ := h.compareReset hcode
  obtain ⟨-, -, htcs, -⟩ := h.timerStopped (by omega)
  exact ⟨htcmp, htcmpa, htcs, h.pad_pwmPin_of_input (by omega)⟩

end Sys2Proof.Machine
end

section
/-! PROOF. The control loop (spec/45_control_loop.md), part 2: the main program as the sequence of its words, whatever the
other agents do between them, and what that says of the compare register (R313 to R316, R319) and of the sample (R317,
R318). -/

namespace Sys2Proof.Machine

/-! ### The main program's next word (10_state.md R34, R312) -/

/-- Where the main program stands: its phase, and the two values that select its word at DECIDE. -/
structure MainPoint where
  mpc : Phase
  sw : Bool
  prev : Bool

/-- The main program's point in a state. -/
def mainPoint (s : State) : MainPoint := ⟨s.mpc, s.sw, s.prev⟩

/-- The one main-context word of a point. At an unused code no word is enabled, and the value says nothing. -/
def MainPoint.word (p : MainPoint) : Instr :=
  match p.mpc with
  | .suCli | .unused _ => .suCli | .suClrrc => .suClrrc | .suWdoff => .suWdoff
  | .inClk => .inClk | .inTcnt0 => .inTcnt0 | .inTcmp => .inTcmp | .inTtop => .inTtop | .inTmode => .inTmode
  | .inTirq => .inTirq | .inAmux => .inAmux | .inActl => .inActl | .inGdir => .inGdir | .inGpue => .inGpue
  | .sei => .mlSei | .settle => .mlSettle | .seed => .mlSeed | .read => .mlRead
  | .decide => if p.sw then (if p.prev then .mlSkip else .mlCenter) else .mlMread
  | .mwrite => .mlMwrite | .record => .mlRecord

/-- The point after its word, where `b` is what the latch shows to a read. -/
def MainPoint.next (b : Bool) (p : MainPoint) : MainPoint :=
  match p.mpc with
  | .suCli => { p with mpc := .suClrrc } | .suClrrc => { p with mpc := .suWdoff } | .suWdoff => { p with mpc := .inClk }
  | .inClk => { p with mpc := .inTcnt0 } | .inTcnt0 => { p with mpc := .inTcmp } | .inTcmp => { p with mpc := .inTtop }
  | .inTtop => { p with mpc := .inTmode } | .inTmode => { p with mpc := .inTirq } | .inTirq => { p with mpc := .inAmux }
  | .inAmux => { p with mpc := .inActl } | .inActl => { p with mpc := .inGdir } | .inGdir => { p with mpc := .inGpue }
  | .inGpue => { p with mpc := .sei } | .sei => { p with mpc := .settle } | .settle => { p with mpc := .seed }
  | .seed => { p with mpc := .read, prev := false }
  | .read => { p with mpc := .decide, sw := b }
  | .decide => { p with mpc := if p.sw then .record else .mwrite }
  | .mwrite => { p with mpc := .record }
  | .record => { p with mpc := .read, prev := p.sw }
  | .unused _ => p

theorem MainPoint.word_isMain (p : MainPoint) : p.word.isMain = true := by
  obtain ⟨mpc, sw, prev⟩ := p
  cases mpc with
  | decide => cases sw <;> cases prev <;> rfl
  | _ => rfl

/-- Only a read looks at the latch. -/
theorem MainPoint.next_congr {p : MainPoint} {b b' : Bool} (h : p.word = .mlRead → b = b') : p.next b = p.next b' := by
  obtain ⟨mpc, sw, prev⟩ := p
  cases mpc with
  | read => rw [h rfl]
  | _ => rfl

theorem eq_word_of_main {i : Instr} {s : State} (he : enabled i s = true) (hm : i.isMain = true) :
    i = (mainPoint s).word := by
  cases i with
  | isEnter | isCapture | isReturn | tmTick | adDone v | ioLatch v | evSw v | rsPor v | rsWdt v | rsOth v => cases hm
  | mlCenter =>
    obtain ⟨-, hp, hsw, hprev⟩ := (enabled_mlCenter_iff s).mp he
    simp [mainPoint, MainPoint.word, hp, hsw, hprev]
  | mlMread =>
    obtain ⟨-, hp, hsw⟩ := (enabled_mlMread_iff s).mp he
    simp [mainPoint, MainPoint.word, hp, hsw]
  | mlSkip =>
    obtain ⟨-, hp, hsw, hprev⟩ := (enabled_mlSkip_iff s).mp he
    simp [mainPoint, MainPoint.word, hp, hsw, hprev]
  | _ =>
    obtain ⟨-, hp⟩ := (s.atPhase_iff _).mp he
    simp [mainPoint, MainPoint.word, hp]

theorem mainPoint_after_of_main {i : Instr} {s : State} (he : enabled i s = true) (hm : i.isMain = true) :
    mainPoint (after i s) = (mainPoint s).next (switchState s.cfg s.gpin) := by
  cases i with
  | isEnter | isCapture | isReturn | tmTick | adDone v | ioLatch v | evSw v | rsPor v | rsWdt v | rsOth v => cases hm
  | mlCenter =>
    obtain ⟨-, hp, hsw, -⟩ := (enabled_mlCenter_iff s).mp he
    simp [mainPoint, MainPoint.next, after, hp, hsw]
  | mlMread =>
    obtain ⟨-, hp, hsw⟩ := (enabled_mlMread_iff s).mp he
    simp [mainPoint, MainPoint.next, after, hp, hsw]
  | mlSkip =>
    obtain ⟨-, hp, hsw, -⟩ := (enabled_mlSkip_iff s).mp he
    simp [mainPoint, MainPoint.next, after, hp, hsw]
  | _ =>
    obtain ⟨-, hp⟩ := (s.atPhase_iff _).mp he
    simp [mainPoint, MainPoint.next, after, hp]

/-- What the other agents leave to the main program: its point, its temporary and the compare register. -/
theorem after_of_not_main {i : Instr} (s : State) (hr : i.isReset = false) (hm : i.isMain = false) :
    mainPoint (after i s) = mainPoint s ∧ (after i s).t = s.t ∧ (after i s).tcmp = s.tcmp := by
  have f := after_frame s hr
  have hne : ∀ w : Instr, w.isMain = true → i ≠ w := by
    rintro w hw rfl
    simp [hw] at hm
  have hmpc := f.mpc.resolve_right (by simp [hm])
  have hsw := f.sw.resolve_right (hne _ rfl)
  have hprev := f.prev.resolve_right (not_or.mpr ⟨hne _ rfl, hne _ rfl⟩)
  exact ⟨by simp only [mainPoint, hmpc, hsw, hprev], f.t.resolve_right (hne _ rfl),
    f.tcmp.resolve_right (not_or.mpr ⟨hne _ rfl, not_or.mpr ⟨hne _ rfl, hne _ rfl⟩⟩)⟩

theorem takeWords_of_not_main {is : List Instr} {s e : State}
    (hq : ∀ i ∈ is, i.isReset = false ∧ i.isMain = false) (h : takeWords is s = .next e) :
    mainPoint e = mainPoint s ∧ e.t = s.t ∧ e.cfg = s.cfg := by
  refine takeWords_induction (P := fun u => mainPoint u = mainPoint s ∧ u.t = s.t ∧ u.cfg = s.cfg)
    (Q := fun i => i.isReset = false ∧ i.isMain = false) ?_ hq ⟨rfl, rfl, rfl⟩ h
  rintro i u ⟨hr, hm⟩ ⟨hpoint, ht, hcfg⟩ -
  obtain ⟨hpoint', ht', -⟩ := after_of_not_main u hr hm
  exact ⟨hpoint'.trans hpoint, ht'.trans ht, (after_cfg i u).trans hcfg⟩

/-- What the words of the main program keep of its point, every trace without a reset keeps. -/
theorem takeWords_mainPoint_induction {P : MainPoint → Prop} {Q : Instr → Prop}
    (keep : ∀ p b, Q p.word → P p → P (p.next b)) {is : List Instr} {s e : State}
    (hq : ∀ i ∈ is, i.isReset = false ∧ Q i) (hp : P (mainPoint s)) (h : takeWords is s = .next e) :
    P (mainPoint e) := by
  refine takeWords_induction (P := fun u => P (mainPoint u)) (Q := fun i => i.isReset = false ∧ Q i) ?_ hq hp h
  rintro i u ⟨hr, hi⟩ hu he
  cases hm : i.isMain with
  | false => rwa [(after_of_not_main u hr hm).1]
  | true =>
    rw [mainPoint_after_of_main he hm]
    exact keep _ _ (eq_word_of_main he hm ▸ hi) hu

/-! ### A transition into CENTER (R313) -/

/-- The main program is on its way to a read it will compare with MANUAL. -/
def MainPoint.BeforeManualPrev (p : MainPoint) : Prop :=
  p.mpc = .seed ∨ (p.mpc = .record ∧ p.sw = false) ∨ (p.mpc = .read ∧ p.prev = false)

theorem MainPoint.beforeManualPrev_next {p : MainPoint} (b : Bool) (hw : p.word ≠ .mlRead) (h : p.BeforeManualPrev) :
    (p.next b).BeforeManualPrev := by
  obtain ⟨mpc, sw, prev⟩ := p
  obtain rfl | ⟨rfl, rfl⟩ | ⟨rfl, -⟩ := h
  · exact .inr (.inr ⟨rfl, rfl⟩)
  · exact .inr (.inr ⟨rfl, rfl⟩)
  · exact absurd rfl hw

theorem MainPoint.BeforeManualPrev.prev_of_read {p : MainPoint} (h : p.BeforeManualPrev) (hp : p.mpc = .read) :
    p.prev = false := by
  obtain h | ⟨h, -⟩ | ⟨-, hprev⟩ := h
  · simp [hp] at h
  · simp [hp] at h
  · exact hprev

/-- No word but a read leads to DECIDE. -/
theorem MainPoint.next_mpc_ne_decide {p : MainPoint} (b : Bool) (hw : p.word ≠ .mlRead) :
    (p.next b).mpc ≠ .decide := by
  obtain ⟨mpc, sw, prev⟩ := p
  cases mpc with
  | read => exact absurd rfl hw
  | decide => cases sw <;> simp [next]
  | _ => simp [next]

/-- The one read of the trace is made with PREV = 0, and nothing after it but a further read leads to DECIDE again. -/
theorem prev_of_decide_of_one_read {is : List Instr} {s u : State} (hs : (mainPoint s).BeforeManualPrev)
    (hr : ∀ i ∈ is, i.isReset = false) (hcount : is.count .mlRead = 1) (h : takeWords is s = .next u)
    (hu : u.mpc = .decide) : u.prev = false := by
  obtain ⟨a, b, rfl⟩ := List.append_of_mem (List.count_pos_iff.mp (hcount ▸ Nat.one_pos))
  rw [List.count_append, List.count_cons_self] at hcount
  have ha : .mlRead ∉ a := List.count_eq_zero.mp (by omega)
  have hb : .mlRead ∉ b := List.count_eq_zero.mp (by omega)
  simp only [List.forall_mem_append, List.forall_mem_cons] at hr
  obtain ⟨hra, -, hrb⟩ := hr
  obtain ⟨x, hx, hrest⟩ := takeWords_append.mp h
  obtain ⟨m, hread, hrest⟩ := takeWords_cons.mp hrest
  obtain ⟨-, -, he, rfl⟩ := takeWord_next hread
  have hbefore : (mainPoint x).BeforeManualPrev :=
    takeWords_mainPoint_induction (Q := (· ≠ .mlRead)) (fun _ c hw hp => MainPoint.beforeManualPrev_next c hw hp)
      (fun i hi => ⟨hra i hi, ne_of_mem_of_not_mem hi ha⟩) hs hx
  have hprev : x.prev = false := hbefore.prev_of_read ((x.atPhase_iff _).mp he).2
  have hafter : (mainPoint (after .mlRead x)).mpc = .decide → (mainPoint (after .mlRead x)).prev = false :=
    fun _ => hprev
  exact takeWords_mainPoint_induction (P := fun p => p.mpc = .decide → p.prev = false) (Q := (· ≠ .mlRead))
    (fun _ c hw _ hp => absurd hp (MainPoint.next_mpc_ne_decide c hw))
    (fun i hi => ⟨hrb i hi, ne_of_mem_of_not_mem hi hb⟩) hafter hrest hu

/-- Settles O47: the read found PREV = 0, so a CENTER state enables ML.CENTER alone, which looks at no sample. -/
theorem transitionIntoCenterWritesTheCenter : Obligations.TransitionIntoCenterWritesTheCenter := by
  intro is s u hs hr hcount h hctx hmpc hsw
  have hbefore : (mainPoint s).BeforeManualPrev := hs.elim (fun hs => .inr (.inl hs)) .inl
  have hprev := prev_of_decide_of_one_read hbefore hr hcount h hmpc
  have hcenter : enabled .mlCenter u = true := (enabled_mlCenter_iff u).mpr ⟨hctx, hmpc, hsw, hprev⟩
  refine ⟨exec_of_disabled ?_, exec_of_disabled ?_, _, exec_of_enabled hcenter, rfl, fun v x =>
    ⟨_, exec_of_enabled hcenter, rfl⟩⟩
  · rw [enabled_mlMread_of_decide hctx hmpc, hsw]
    rfl
  · rw [enabled_mlSkip_of_decide hctx hmpc, hprev, Bool.and_false]

end Sys2Proof.Machine
end

section
/-! PROOF. The control loop (spec/45_control_loop.md), part 3: the iterations that read CENTER and those that read MANUAL
(R314, R315), the compare register up to the loop's writes (R316) and the sample they read (R317, R318). -/

namespace Sys2Proof.Machine

/-! ### The sequence of the main program's words (R314) -/

/-- The next `n` words of the main program from a point, where every read finds `b`. -/
def mainWords (b : Bool) : Nat → MainPoint → List Instr
  | 0, _ => []
  | n + 1, p => p.word :: mainWords b n (p.next b)

theorem mainWords_prefix (b : Bool) {n k : Nat} (hnk : n ≤ k) (p : MainPoint) : mainWords b n p <+: mainWords b k p := by
  induction n generalizing k p with
  | zero => exact List.nil_prefix
  | succ n ih =>
    obtain ⟨k, rfl⟩ := Nat.exists_eq_add_of_lt hnk
    exact List.cons_prefix_cons.mpr ⟨rfl, ih (by omega) _⟩

/-- The other agents' words change neither the main program's words nor their order. -/
theorem exists_filter_isMain_eq {b : Bool} {is : List Instr} {s e : State} (hr : ∀ i ∈ is, i.isReset = false)
    (hreads : ReadsOnly b is s) (h : takeWords is s = .next e) :
    ∃ n, is.filter Instr.isMain = mainWords b n (mainPoint s) := by
  induction is generalizing s with
  | nil => exact ⟨0, rfl⟩
  | cons i is ih =>
    obtain ⟨m, hm, hrest⟩ := takeWords_cons.mp h
    obtain ⟨hread, hreads⟩ := readsOnly_cons.mp hreads
    obtain ⟨n, hn⟩ := ih (fun j hj => hr j (List.mem_cons_of_mem _ hj)) (hreads m hm) hrest
    obtain ⟨-, -, he, rfl⟩ := takeWord_next hm
    cases hmain : i.isMain with
    | false =>
      rw [(after_of_not_main s (hr i List.mem_cons_self) hmain).1] at hn
      exact ⟨n, by rw [List.filter_cons_of_neg (by simp [hmain]), hn]⟩
    | true =>
      have hword := eq_word_of_main he hmain
      rw [mainPoint_after_of_main he hmain, MainPoint.next_congr fun hw => hread (hword.trans hw)] at hn
      exact ⟨n + 1, by rw [List.filter_cons_of_pos hmain, hn, mainWords, ← hword]⟩

/-- Reading CENTER with PREV = 1, the program skips for ever. -/
theorem mainWords_skip (n : Nat) (sw : Bool) :
    mainWords true (3 * n) ⟨.read, sw, true⟩ = (List.replicate n iterSkip).flatten := by
  induction n generalizing sw with
  | zero => rfl
  | succ n ih => exact congrArg (iterSkip ++ ·) (ih true)

/-- Reading MANUAL, the program writes for ever. -/
theorem mainWords_manual (n : Nat) (sw prev : Bool) :
    mainWords false (4 * n) ⟨.read, sw, prev⟩ = (List.replicate n iterManual).flatten := by
  induction n generalizing sw prev with
  | zero => rfl
  | succ n ih => exact congrArg (iterManual ++ ·) (ih false false)

/-- Reading CENTER with PREV = 0, the program centers once. -/
theorem mainWords_center (n : Nat) (sw : Bool) :
    mainWords true (3 * n + 3) ⟨.read, sw, false⟩ = iterCenter ++ (List.replicate n iterSkip).flatten :=
  congrArg (iterCenter ++ ·) (mainWords_skip n true)

/-- After an iteration that read MANUAL. -/
theorem mainWords_record_center (n : Nat) (prev : Bool) :
    mainWords true (3 * n + 4) ⟨.record, false, prev⟩ =
      .mlRecord :: (iterCenter ++ (List.replicate n iterSkip).flatten) :=
  congrArg (Instr.mlRecord :: ·) (mainWords_center n false)

theorem mainWords_seed_center (n : Nat) (sw prev : Bool) :
    mainWords true (3 * n + 4) ⟨.seed, sw, prev⟩ = .mlSeed :: (iterCenter ++ (List.replicate n iterSkip).flatten) :=
  congrArg (Instr.mlSeed :: ·) (mainWords_center n sw)

/-- After an iteration that read CENTER. -/
theorem mainWords_record_skip (n : Nat) (prev : Bool) :
    mainWords true (3 * n + 1) ⟨.record, true, prev⟩ = .mlRecord :: (List.replicate n iterSkip).flatten :=
  congrArg (Instr.mlRecord :: ·) (mainWords_skip n true)

theorem mainWords_record_manual (n : Nat) (sw prev : Bool) :
    mainWords false (4 * n + 1) ⟨.record, sw, prev⟩ = .mlRecord :: (List.replicate n iterManual).flatten :=
  congrArg (Instr.mlRecord :: ·) (mainWords_manual n sw sw)

theorem mainWords_seed_manual (n : Nat) (sw prev : Bool) :
    mainWords false (4 * n + 1) ⟨.seed, sw, prev⟩ = .mlSeed :: (List.replicate n iterManual).flatten :=
  congrArg (Instr.mlSeed :: ·) (mainWords_manual n sw false)

/-- A trace's main-context words begin the sequence of the main program, taken far enough. -/
theorem exists_filter_isMain_prefix {b : Bool} {is : List Instr} {s e : State} (hr : ∀ i ∈ is, i.isReset = false)
    (hreads : ReadsOnly b is s) (h : takeWords is s = .next e) {p : MainPoint} (hp : mainPoint s = p)
    {k : Nat → Nat} {words : Nat → List Instr} (hwords : ∀ n, mainWords b (k n) p = words n) (hk : ∀ n, n ≤ k n) :
    ∃ n, is.filter Instr.isMain <+: words n := by
  obtain ⟨n, hn⟩ := exists_filter_isMain_eq hr hreads h
  exact ⟨n, by rw [hn, hp, ← hwords]; exact mainWords_prefix b (hk n) _⟩

/-! ### The writes of the compare register (R314 to R316) -/

/-- A point whose next words, where every read finds CENTER, write no sample. -/
def MainPoint.CentersOrSkips (p : MainPoint) : Prop :=
  p.mpc = .seed ∨ p.mpc = .record ∨ p.mpc = .read ∨ (p.mpc = .decide ∧ p.sw = true)

theorem MainPoint.CentersOrSkips.step {p : MainPoint} (h : p.CentersOrSkips) :
    (p.word ≠ .inTcmp ∧ p.word ≠ .mlMwrite) ∧ (p.next true).CentersOrSkips := by
  obtain ⟨mpc, sw, prev⟩ := p
  obtain rfl | rfl | rfl | ⟨rfl, rfl⟩ := h
  · exact ⟨⟨nofun, nofun⟩, .inr (.inr (.inl rfl))⟩
  · exact ⟨⟨nofun, nofun⟩, .inr (.inr (.inl rfl))⟩
  · exact ⟨⟨nofun, nofun⟩, .inr (.inr (.inr ⟨rfl, rfl⟩))⟩
  · cases prev <;> exact ⟨⟨nofun, nofun⟩, .inr (.inl rfl)⟩

theorem MainPoint.CentersOrSkips.ne_of_mem_mainWords {p : MainPoint} (h : p.CentersOrSkips) {n : Nat} {i : Instr}
    (hi : i ∈ mainWords true n p) : i ≠ .inTcmp ∧ i ≠ .mlMwrite := by
  induction n generalizing p with
  | zero => simp [mainWords] at hi
  | succ n ih =>
    obtain ⟨hword, hnext⟩ := h.step
    rcases List.mem_cons.mp hi with rfl | hi
    · exact hword
    · exact ih hnext hi

/-- Where ML.CENTER is the only writer, the register ends as the center, or as it was. -/
theorem takeWords_tcmp_of_center_only {is : List Instr} {s e : State}
    (hq : ∀ i ∈ is, i.isReset = false ∧ i ≠ .inTcmp ∧ i ≠ .mlMwrite) (h : takeWords is s = .next e) :
    e.tcmp = if Instr.mlCenter ∈ is then centerByte s.cfg else s.tcmp := by
  induction is generalizing s with
  | nil =>
    cases h
    rfl
  | cons i is ih =>
    obtain ⟨m, hm, hrest⟩ := takeWords_cons.mp h
    obtain ⟨-, -, -, rfl⟩ := takeWord_next hm
    obtain ⟨hr, hne, hne'⟩ := hq i List.mem_cons_self
    rw [ih (fun j hj => hq j (List.mem_cons_of_mem _ hj)) hrest, after_cfg]
    by_cases hi : i = .mlCenter
    · subst hi
      simp [after]
    · rw [(after_frame s hr).tcmp.resolve_right (by simp [hne, hne', hi])]
      simp [Ne.symm hi]

theorem takeWords_tcmp_of_center_reads {is : List Instr} {s e : State} (hr : ∀ i ∈ is, i.isReset = false)
    (hreads : ReadsOnly true is s) (h : takeWords is s = .next e) (hp : s.mpc = .record ∨ s.mpc = .seed) :
    e.tcmp = if Instr.mlCenter ∈ is then centerByte s.cfg else s.tcmp := by
  obtain ⟨n, hn⟩ := exists_filter_isMain_eq hr hreads h
  have hpoint : (mainPoint s).CentersOrSkips := hp.elim (fun hp => .inr (.inl hp)) .inl
  refine takeWords_tcmp_of_center_only (fun i hi => ⟨hr i hi, ?_⟩) h
  cases hm : i.isMain with
  | true => exact hpoint.ne_of_mem_mainWords (hn ▸ List.mem_filter.mpr ⟨hi, hm⟩)
  | false =>
    constructor <;>
    · rintro rfl
      cases hm

/-- The value written is the scaled sample that was read, whatever the other agents do between (R306, R318). -/
theorem after_mlMwrite_of_mlMread {is : List Instr} {s u : State}
    (hq : ∀ i ∈ is, i.isReset = false ∧ i.isMain = false) (h : takeWords is (after .mlMread s) = .next u) :
    after .mlMwrite u = { u.writeCmp (scale s.cfg s.sample) with mpc := .record } := by
  obtain ⟨-, ht, hcfg⟩ := takeWords_of_not_main hq h
  simp only [after, ht, hcfg]
  rfl

/-- The same where the two words stand in a longer trace, which leads over the write. -/
theorem exec_mlMwrite_of_mlMread_mem {a b c : List Instr} {s x u e : State} (hr : ∀ i ∈ b, i.isReset = false)
    (hb : ∀ i ∈ b, i.isMain = false) (hx : takeWords a s = .next x) (hu : takeWords (a ++ .mlMread :: b) s = .next u)
    (h : takeWords (a ++ .mlMread :: (b ++ .mlMwrite :: c)) s = .next e) :
    exec .mlMwrite u = .next { u.writeCmp (scale x.cfg x.sample) with mpc := .record } := by
  rw [← List.cons_append, ← List.append_assoc, takeWords_append] at h
  obtain ⟨u', hu', hrest⟩ := h
  cases hu.symm.trans hu'
  obtain ⟨m, hwrite, -⟩ := takeWords_cons.mp hrest
  obtain ⟨-, -, he, -⟩ := takeWord_next hwrite
  obtain ⟨x', hx', hread⟩ := takeWords_append.mp hu
  cases hx.symm.trans hx'
  obtain ⟨r, hmread, hbetween⟩ := takeWords_cons.mp hread
  obtain ⟨-, -, -, rfl⟩ := takeWord_next hmread
  rw [exec_of_enabled he, after_mlMwrite_of_mlMread (fun i hi => ⟨hr i hi, hb i hi⟩) hbetween]

/-- Settles O52: the temporary keeps the sample, and ML.MREAD's own next state has the same words and temporary. -/
theorem preemptionDoesNotChangeTheWrittenValue : Obligations.PreemptionDoesNotChangeTheWrittenValue := by
  intro is s r e f hread hq h hwrite
  obtain ⟨he, rfl⟩ := exec_next hread
  obtain ⟨-, rfl⟩ := exec_next hwrite
  obtain ⟨hctx, -⟩ := (enabled_mlMread_iff s).mp he
  have hnow : enabled .mlMwrite (after .mlMread s) = true := atPhase_of_main hctx rfl
  rw [after_mlMwrite_of_mlMread hq h]
  exact ⟨rfl, _, exec_of_enabled hnow, rfl⟩

/-! ### Iterations with nothing between (R314) -/

theorem runTrace_trans {is js : List Instr} {s m e : State} (h : runTrace is s = .next m) (h' : runTrace js m = .next e) :
    runTrace (is ++ js) s = .next e :=
  runTrace_append.mpr ⟨m, (runTrace_next.mp h).1, h'⟩

theorem runTrace_replicate_of_fixed {is : List Instr} {s : State} (h : runTrace is s = .next s) (n : Nat) :
    runTrace (List.replicate n is).flatten s = .next s := by
  induction n with
  | zero =>
    obtain ⟨-, hf, hr⟩ := runTrace_next.mp h
    exact runTrace_nil hf hr
  | succ n ih => exact runTrace_trans h ih

theorem writeCmp_writeCmp (s : State) (v : Byte) : (s.writeCmp v).writeCmp v = s.writeCmp v := by
  have hheld : (s.writeCmp v).cmpHeld = s.cmpHeld := rfl
  cases h : s.cmpHeld with
  | true => rw [writeCmp_held (hheld.trans h), writeCmp_held h]
  | false => rw [writeCmp_now (hheld.trans h), writeCmp_now h]

section

variable {s : State} (hf : s.fault = none) (hr : s.refused = none) (hctx : s.ctx = .main) (hmpc : s.mpc = .read)
include hf hr hctx hmpc

theorem runTrace_iterSkips (hsw : switchState s.cfg s.gpin = true) (hprev : s.prev = true) (ht : s.sw = true) (n : Nat) :
    runTrace (List.replicate n iterSkip).flatten s = .next s := by
  have hfixed : { s with sw := true } = s := by rw [← ht]
  refine runTrace_replicate_of_fixed ?_ n
  rw [runTrace_iterSkip hf hr hctx hmpc hsw hprev, hfixed]

theorem runTrace_iterManuals (hsw : switchState s.cfg s.gpin = false) (n : Nat) :
    runTrace (List.replicate (n + 1) iterManual).flatten s =
      .next { s.writeCmp (scale s.cfg s.sample) with sw := false, prev := false, t := s.sample } := by
  have hfirst := runTrace_iterManual hf hr hctx hmpc hsw
  have hagain : runTrace iterManual { s.writeCmp (scale s.cfg s.sample) with sw := false, prev := false, t := s.sample } =
      .next { (s.writeCmp (scale s.cfg s.sample)).writeCmp (scale s.cfg s.sample) with
              sw := false, prev := false, t := s.sample } := runTrace_iterManual hf hr hctx hmpc hsw
  rw [writeCmp_writeCmp] at hagain
  exact runTrace_trans hfirst (runTrace_replicate_of_fixed hagain n)

theorem runTrace_iterCenter_iterSkips (hsw : switchState s.cfg s.gpin = true) (hprev : s.prev = false) (n : Nat) :
    runTrace (iterCenter ++ (List.replicate n iterSkip).flatten) s =
      .next { s.writeCmp (centerByte s.cfg) with sw := true, prev := true } := by
  refine runTrace_trans (runTrace_iterCenter hf hr hctx hmpc hsw hprev) ?_
  exact runTrace_iterSkips (s := { s.writeCmp (centerByte s.cfg) with sw := true, prev := true }) hf hr hctx hmpc hsw
    rfl rfl n

theorem runTrace_iterSkips_succ (hsw : switchState s.cfg s.gpin = true) (hprev : s.prev = true) (n : Nat) :
    runTrace (List.replicate (n + 1) iterSkip).flatten s = .next { s with sw := true } := by
  refine runTrace_trans (runTrace_iterSkip hf hr hctx hmpc hsw hprev) ?_
  exact runTrace_iterSkips (s := { s with sw := true }) hf hr hctx hmpc hsw hprev rfl n

end

/-- Settles O48: whatever interleaves, the main-context words are the main program's own sequence; ML.CENTER is the only
one of it that writes while every read finds CENTER; and with nothing between, further iterations change nothing. -/
theorem centerIsWrittenOnEntryAndManualAlways : Obligations.CenterIsWrittenOnEntryAndManualAlways := by
  refine ⟨fun is s e hr h => ⟨fun hreads => ?_, fun hreads => ?_, fun a b c x u his hb hx hu => ?_⟩,
    fun s n hf hr hctx hmpc => ?_⟩
  · refine ⟨fun hp hsw => ?_, fun hp => ?_, fun hp hsw => ?_, takeWords_tcmp_of_center_reads hr hreads h⟩
    · exact exists_filter_isMain_prefix hr hreads h (by rw [mainPoint, hp, hsw]) (mainWords_record_center · s.prev)
        fun n => by omega
    · exact exists_filter_isMain_prefix hr hreads h (by rw [mainPoint, hp]) (mainWords_seed_center · s.sw s.prev)
        fun n => by omega
    · exact exists_filter_isMain_prefix hr hreads h (by rw [mainPoint, hp, hsw]) (mainWords_record_skip · s.prev)
        fun n => by omega
  · refine ⟨fun hp => ?_, fun hp => ?_⟩
    · exact exists_filter_isMain_prefix hr hreads h (by rw [mainPoint, hp]) (mainWords_record_manual · s.sw s.prev)
        fun n => by omega
    · exact exists_filter_isMain_prefix hr hreads h (by rw [mainPoint, hp]) (mainWords_seed_manual · s.sw s.prev)
        fun n => by omega
  · rw [his] at h
    have hrb : ∀ i ∈ b, i.isReset = false := fun i hi => hr i (by simp [his, hi])
    exact exec_mlMwrite_of_mlMread_mem hrb hb hx hu h
  · exact ⟨fun hsw hprev => runTrace_iterCenter_iterSkips hf hr hctx hmpc hsw hprev n,
      fun hsw hprev => runTrace_iterSkips_succ hf hr hctx hmpc hsw hprev n,
      fun hsw => runTrace_iterManuals hf hr hctx hmpc hsw n⟩

/-! ### The register until the loop writes it (R316) -/

theorem takeWords_tcmp_eq_center {is : List Instr} {s e : State}
    (hq : ∀ i ∈ is, i.isReset = false ∧ i ≠ .mlCenter ∧ i ≠ .mlMwrite) (hs : s.tcmp = centerByte s.cfg)
    (h : takeWords is s = .next e) : e.tcmp = centerByte e.cfg := by
  refine takeWords_induction (P := fun u => u.tcmp = centerByte u.cfg)
    (Q := fun i => i.isReset = false ∧ i ≠ .mlCenter ∧ i ≠ .mlMwrite) ?_ hq hs h
  rintro i u ⟨hr, hcenter, hmwrite⟩ hu -
  rw [after_cfg]
  rcases (after_frame u hr).tcmp with hkeep | rfl | rfl | rfl
  · exact hkeep.trans hu
  · rfl
  · exact absurd rfl hcenter
  · exact absurd rfl hmwrite

/-- At RECORD no main-context word but ML.RECORD is enabled, so nothing else writes the register. -/
theorem takeWords_tcmp_of_record {is : List Instr} {s e : State} (hq : ∀ i ∈ is, i.isReset = false ∧ i ≠ .mlRecord)
    (hs : s.mpc = .record) (h : takeWords is s = .next e) : e.tcmp = s.tcmp := by
  suffices e.mpc = .record ∧ e.tcmp = s.tcmp from this.2
  refine takeWords_induction (P := fun u => u.mpc = .record ∧ u.tcmp = s.tcmp)
    (Q := fun i => i.isReset = false ∧ i ≠ .mlRecord) ?_ hq ⟨hs, rfl⟩ h
  rintro i u ⟨hr, hne⟩ ⟨hp, hu⟩ he
  cases hm : i.isMain with
  | true =>
    have hword := eq_word_of_main he hm
    simp only [mainPoint, MainPoint.word, hp] at hword
    exact absurd hword hne
  | false =>
    obtain ⟨hpoint, -, htcmp⟩ := after_of_not_main u hr hm
    exact ⟨(congrArg MainPoint.mpc hpoint).trans hp, htcmp.trans hu⟩

/-- Settles O49: IN.TCMP writes the center, the invariant has it up to the seed, and what either loop write leaves stays
up to ML.RECORD. -/
theorem compareIsCenterUntilTheLoopWrites : Obligations.CompareIsCenterUntilTheLoopWrites := by
  refine ⟨fun is s r e hx hq h => ?_, fun s hs hp => ?_, fun is u u' e hx hq h => ?_⟩
  · obtain ⟨-, rfl⟩ := exec_next hx
    exact takeWords_tcmp_eq_center hq rfl h
  · have hcode : 6 ≤ s.mpc.code ∧ s.mpc.code ≤ 15 := by
      rcases hp with hp | hp | hp <;> simp [hp, Phase.code]
    exact (hs.blockInv.compareCenter hcode.1 hcode.2).1
  · have hrecord : u'.mpc = .record := by
      rcases hx with hx | hx <;> rw [(exec_next hx).2] <;> rfl
    rw [takeWords_tcmp_of_record hq hrecord h]
    exact ⟨fun hx => by rw [(exec_next hx).2]; rfl, fun hx => by rw [(exec_next hx).2]; rfl⟩

/-! ### The sample that is read (R317) -/

/-- The writers of the sample cell, each with the whole byte it writes. -/
theorem after_sample_cases (i : Instr) (s : State) :
    (after i s).sample = s.sample ∨
      (i = .rsPor (after i s).sample ∨ i = .rsWdt (after i s).sample ∨ i = .rsOth (after i s).sample) ∨
      (i = .isCapture ∧ s.aresh = (after i s).sample) := by
  cases hr : i.isReset with
  | true =>
    cases i with
    | rsPor v => exact .inr (.inl (.inl rfl))
    | rsWdt v => exact .inr (.inl (.inr (.inl rfl)))
    | rsOth v => exact .inr (.inl (.inr (.inr rfl)))
    | _ => cases hr
  | false =>
    rcases (after_frame s hr).sample with hkeep | rfl
    · exact .inl hkeep
    · cases hl : s.alar with
      | true => exact .inr (.inr ⟨rfl, by rw [after_isCapture_of_leftAligned hl]; rfl⟩)
      | false => exact .inl (by simp [after, hl])

/-- Where a trace from `s` has a byte from: the cell at the start, a reset word's draw, or a capture. -/
def SampleSource (is : List Instr) (s : State) (v : Byte) : Prop :=
  v = s.sample ∨
    (∃ i ∈ is, i = .rsPor v ∨ i = .rsWdt v ∨ i = .rsOth v) ∨
    (∃ (a b : List Instr) (x : State), is = a ++ Instr.isCapture :: b ∧ takeWords a s = .next x ∧ x.aresh = v)

theorem SampleSource.append {is : List Instr} {s : State} {v : Byte} (h : SampleSource is s v) (js : List Instr) :
    SampleSource (is ++ js) s v := by
  obtain h | ⟨i, hi, h⟩ | ⟨a, b, x, rfl, h⟩ := h
  · exact .inl h
  · exact .inr (.inl ⟨i, List.mem_append_left js hi, h⟩)
  · exact .inr (.inr ⟨a, b ++ js, x, by simp, h⟩)

/-- The last word of the trace writes the cell, or leaves what the words before it put there. -/
theorem sampleSource_of_takeWords {is : List Instr} {s u : State} (h : takeWords is s = .next u) :
    SampleSource is s u.sample := by
  induction is using List.reverseRecOn generalizing u with
  | nil =>
    cases h
    exact .inl rfl
  | append_singleton is i ih =>
    obtain ⟨m, hm, hlast⟩ := takeWords_append.mp h
    obtain ⟨r, hi, hnil⟩ := takeWords_cons.mp hlast
    obtain ⟨-, -, -, rfl⟩ := takeWord_next hi
    cases hnil
    rcases after_sample_cases i m with hkeep | hreset | ⟨rfl, hcapture⟩
    · rw [hkeep]
      exact (ih hm).append [i]
    · exact .inr (.inl ⟨i, by simp, hreset⟩)
    · exact .inr (.inr ⟨is, [], m, rfl, hm, hcapture⟩)

/-- Settles O50: ML.MREAD copies the whole cell. -/
theorem sampleReadIsOneWrittenWhole : Obligations.SampleReadIsOneWrittenWhole := by
  intro is s u u' h hread
  obtain ⟨-, rfl⟩ := exec_next hread
  exact sampleSource_of_takeWords h

end Sys2Proof.Machine
end

section
/-! PROOF. The control loop (spec/45_control_loop.md), part 4: rapid switching (R319) and, in a fair run, the loop that
goes on for ever and reads a settled switch as it stands (R321). -/

namespace Sys2Proof.Machine

/-! ### The switch, latched (44_gpio_latch.md R272 to R281) -/

/-- From IN.GPUE on a latch shows the contact as it stands. -/
theorem switchState_of_latch {s s' : State} {ff : Byte} (hs : Reachable s) (hcode : 13 ≤ s.mpc.code)
    (hstep : Steps s (.ioLatch ff) s') : switchState s'.cfg s'.gpin = decide (s.swc = .openContact) :=
  (switchLatchesAsCenterOrManual.2.1 s s' ff hs hcode hstep).2

theorem after_evSw_of_wf {s : State} {b : Byte} (hw : (Instr.evSw b).wf s.cfg.nPins = true) :
    after (.evSw b) s = { s with swc := if b = 0 then .closedContact else .openContact } :=
  if_pos hw

/-! ### Rapid switching (R319) -/

theorem Steps.runTrace_cons {s s' : State} {i : Instr} (h : Steps s i s') (is : List Instr) :
    runTrace (i :: is) s = runTrace is s' := by
  obtain ⟨hf, hr, -, hx⟩ := h
  obtain ⟨he, rfl⟩ := exec_next hx
  exact Machine.runTrace_cons he hf hr

/-- A reachable state at the start of an iteration, with its configuration, its sample and its PREV. -/
structure AtRead (c : Cfg) (v : Byte) (p : Bool) (s : State) : Prop where
  reachable : Reachable s
  ctx : s.ctx = .main
  mpc : s.mpc = .read
  cfg : s.cfg = c
  sample : s.sample = v
  prev : s.prev = p

namespace AtRead

variable {c : Cfg} {v : Byte} {p : Bool} {s : State} (h : AtRead c v p s)
include h

theorem noFault : s.fault = none := h.reachable.blockInv.noFault

theorem notRefused : s.refused = none := h.reachable.refused

theorem steps_evSw {b : Byte} (hb : b.toNat ≤ 1) :
    Steps s (.evSw b) { s with swc := if b = 0 then .closedContact else .openContact } :=
  ⟨h.noFault, h.notRefused, decide_eq_true hb, by rw [exec_of_enabled rfl, after_evSw_of_wf (decide_eq_true hb)]⟩

theorem steps_ioLatch : Steps s (.ioLatch 0) { s with gpin := latchValue 0 s } := by
  have hw : (Instr.ioLatch 0).wf s.cfg.nPins = true := decide_eq_true (Nat.two_pow_pos _)
  exact ⟨h.noFault, h.notRefused, hw, by rw [exec_of_enabled rfl, after_ioLatch_of_wf hw]⟩

/-- The environment moves the contact and the latch takes it over. -/
theorem exists_switched {b : Byte} (hb : b.toNat ≤ 1) :
    ∃ e, runTrace [.evSw b, .ioLatch 0] s = .next e ∧ AtRead c v p e ∧ switchState e.cfg e.gpin = decide (b ≠ 0) := by
  have hmove := h.steps_evSw hb
  have hmoved : AtRead c v p { s with swc := if b = 0 then .closedContact else .openContact } :=
    ⟨.step _ h.reachable hmove, h.ctx, h.mpc, h.cfg, h.sample, h.prev⟩
  have hlatch := hmoved.steps_ioLatch
  refine ⟨_, ?_, ⟨.step _ hmoved.reachable hlatch, h.ctx, h.mpc, h.cfg, h.sample, h.prev⟩, ?_⟩
  · rw [hmove.runTrace_cons, hlatch.runTrace_cons]
    exact runTrace_nil h.noFault h.notRefused
  · rw [switchState_of_latch hmoved.reachable (by simp [h.mpc, Phase.code]) hlatch]
    by_cases hzero : b = 0 <;> simp [hzero]

/-- A CENTER iteration after a MANUAL one writes the center. -/
theorem exists_center (hp : p = false) :
    ∃ e, runTrace [.evSw 1, .ioLatch 0, .mlRead, .mlCenter, .mlRecord] s = .next e ∧ AtRead c v true e ∧
      e.tcmp = centerByte c := by
  obtain ⟨m, hm, hat, hsw⟩ := h.exists_switched (b := 1) (by decide)
  have hiter := runTrace_iterCenter hat.noFault hat.notRefused hat.ctx hat.mpc hsw (hat.prev.trans hp)
  refine ⟨_, runTrace_trans hm hiter, ⟨?_, hat.ctx, hat.mpc, hat.cfg, hat.sample, rfl⟩, congrArg centerByte hat.cfg⟩
  exact reachable_takeWords hat.reachable (by simp [iterCenter, Instr.wf]) (runTrace_next.mp hiter).1

/-- A MANUAL iteration writes the scaled sample. -/
theorem exists_manual :
    ∃ e, runTrace [.evSw 0, .ioLatch 0, .mlRead, .mlMread, .mlMwrite, .mlRecord] s = .next e ∧ AtRead c v false e ∧
      e.tcmp = scale c v := by
  obtain ⟨m, hm, hat, hsw⟩ := h.exists_switched (b := 0) (by decide)
  have hiter := runTrace_iterManual hat.noFault hat.notRefused hat.ctx hat.mpc hsw
  refine ⟨_, runTrace_trans hm hiter, ⟨?_, hat.ctx, hat.mpc, hat.cfg, hat.sample, rfl⟩,
    congrArg₂ scale hat.cfg hat.sample⟩
  exact reachable_takeWords hat.reachable (by simp [iterManual, Instr.wf]) (runTrace_next.mp hiter).1

theorem exists_rounds (hp : p = false) (n : Nat) :
    ∃ e, runTrace (List.replicate n
        [Instr.evSw 1, .ioLatch 0, .mlRead, .mlCenter, .mlRecord,
         .evSw 0, .ioLatch 0, .mlRead, .mlMread, .mlMwrite, .mlRecord]).flatten s = .next e ∧ AtRead c v false e := by
  induction n generalizing p s with
  | zero => exact ⟨s, runTrace_nil h.noFault h.notRefused, hp ▸ h⟩
  | succ n ih =>
    obtain ⟨m, hm, hat, -⟩ := h.exists_center hp
    obtain ⟨k, hk, hat, -⟩ := hat.exists_manual
    obtain ⟨e, he, hend⟩ := ih hat rfl
    exact ⟨e, runTrace_trans (runTrace_trans hm hk) he, hend⟩

end AtRead

/-- Settles O53: each half of a round latches the contact it set, and its iteration reads it. -/
theorem rapidSwitchingAlternatesTheWrites : Obligations.RapidSwitchingAlternatesTheWrites := by
  intro s n hs hctx hmpc hprev
  obtain ⟨e, he, hat⟩ := AtRead.exists_rounds ⟨hs, hctx, hmpc, rfl, rfl, hprev⟩ rfl n
  obtain ⟨c, hc, hatc, htcmpc⟩ := hat.exists_center rfl
  obtain ⟨m, hm, -, htcmpm⟩ := hatc.exists_manual
  exact ⟨e, c, m, he, hat.prev, hat.mpc, hat.ctx, hat.sample, hc, htcmpc, hm, htcmpm⟩

/-! ### The main context's steps in a fair run (10_state.md R33) -/

theorem isMain_iff_kind {i : Instr} : i.isMain = true ↔ i.kind = some .mainStep := by
  cases i <;> simp [Instr.isMain, Instr.kind]

theorem exists_ioLatch_of_kind {i : Instr} (h : i.kind = some .latch) : ∃ ff, i = .ioLatch ff := by
  cases i with
  | ioLatch ff => exact ⟨ff, rfl⟩
  | _ => cases h

theorem wf_of_isMain {i : Instr} (n : Nat) (hm : i.isMain = true) : i.wf n = true := by
  cases i with
  | isEnter | isCapture | isReturn | tmTick | adDone v | ioLatch v | evSw v | rsPor v | rsWdt v | rsOth v => cases hm
  | _ => rfl

/-- At each of the twenty phases the main context has a step (R312 for DECIDE). -/
theorem enabled_word {s : State} (hctx : s.ctx = .main) (hcode : s.mpc.code < 20) :
    enabled (mainPoint s).word s = true := by
  cases hp : s.mpc with
  | unused k =>
    rw [hp, Phase.code] at hcode
    omega
  | decide =>
    cases hsw : s.sw <;> cases hprev : s.prev <;>
      simp [mainPoint, MainPoint.word, enabled, State.atPhase_iff, hctx, hp, hsw, hprev]
  | _ => simp [mainPoint, MainPoint.word, enabled, State.atPhase_iff, hctx, hp]

/-- How many steps of the main program a point of the loop is before its next read. -/
def MainPoint.stepsToRead (p : MainPoint) : Nat :=
  match p.mpc with
  | .settle => 2
  | .seed | .record => 1
  | .decide => if p.sw then 2 else 3
  | .mwrite => 2
  | _ => 0

theorem MainPoint.stepsToRead_next_lt {p : MainPoint} (b : Bool) (hafter : 14 ≤ p.mpc.code) (hcode : p.mpc.code < 20)
    (hw : p.word ≠ .mlRead) : (p.next b).stepsToRead < p.stepsToRead := by
  obtain ⟨mpc, sw, prev⟩ := p
  cases mpc with
  | read => exact absurd rfl hw
  | decide => cases sw <;> simp [next, stepsToRead]
  | settle | seed | mwrite | record => simp [next, stepsToRead]
  | _ =>
    simp only [Phase.code] at hafter hcode
    omega

section

variable {st : Nat → State} {w : Nat → Instr}

theorem IsRun.mainPoint_eq_of_no_main (h : IsRun st w) (hr : ∀ n, (w n).isReset = false) {n m : Nat} (hnm : n ≤ m)
    (hno : ∀ j, n ≤ j → j < m → (w j).isMain = false) : mainPoint (st m) = mainPoint (st n) := by
  induction m, hnm using Nat.le_induction with
  | base => rfl
  | succ m hnm ih =>
    obtain ⟨-, hst⟩ := h.enabled_and_eq m
    obtain ⟨hkeep, -⟩ := after_of_not_main (st m) (hr m) (hno m hnm m.lt_succ_self)
    rw [hst, hkeep]
    exact ih fun j hj hjm => hno j hj (by omega)

variable (hfair : FairRun st w) (h0 : Reachable (st 0)) (hr : ∀ n, (w n).isReset = false)
include hfair h0 hr

theorem exists_main_of_atReturn {n : Nat} (hn : (st n).atHandler .ret = true) : ∃ m, n ≤ m ∧ (st m).ctx = .main := by
  obtain ⟨m, hm, hw, -⟩ := exists_handlerStep hfair h0 hr hn
  obtain ⟨-, hst⟩ := hfair.1.enabled_and_eq m
  exact ⟨m + 1, by omega, by rw [hst, hw]; rfl⟩

theorem exists_atReturn_of_atCapture {n : Nat} (hn : (st n).atHandler .capture = true) :
    ∃ m, n ≤ m ∧ (st m).atHandler .ret = true := by
  obtain ⟨m, hm, hw, -⟩ := exists_handlerStep hfair h0 hr hn
  obtain ⟨he, hst⟩ := hfair.1.enabled_and_eq m
  rw [hw] at he hst
  have hcapture : after (handlerWord .capture) (st m) = _ := (hfair.1.reachable h0 m).blockInv.after_isCapture he
  refine ⟨m + 1, by omega, (State.atHandler_iff _ _).mpr ?_⟩
  rw [hst, hcapture]
  exact ⟨((State.atHandler_iff _ _).mp he).1, rfl⟩

/-- The interrupt context ends after its steps, each taken by weak fairness. -/
theorem exists_main (n : Nat) : ∃ m, n ≤ m ∧ (st m).ctx = .main := by
  cases hctx : (st n).ctx with
  | main => exact ⟨n, le_rfl, hctx⟩
  | isr =>
    cases hipc : (st n).ipc with
    | ret => exact exists_main_of_atReturn hfair h0 hr ((State.atHandler_iff _ _).mpr ⟨hctx, hipc⟩)
    | capture =>
      obtain ⟨k, hk, hret⟩ := exists_atReturn_of_atCapture hfair h0 hr ((State.atHandler_iff _ _).mpr ⟨hctx, hipc⟩)
      obtain ⟨m, hm, hmain⟩ := exists_main_of_atReturn hfair h0 hr hret
      exact ⟨m, hk.trans hm, hmain⟩

/-- The main step is enabled infinitely often, so strong fairness has it taken. -/
theorem exists_isMain (n : Nat) : ∃ m, n ≤ m ∧ (w m).isMain = true := by
  obtain ⟨m, hm, hk⟩ := hfair.2.2 (fun n => by
    obtain ⟨m, hm, hctx⟩ := exists_main hfair h0 hr n
    have hs := hfair.1.reachable h0 m
    have hmain := (mainPoint (st m)).word_isMain
    exact ⟨m, hm, hs.kindEnabled (isMain_iff_kind.mp hmain) (wf_of_isMain _ hmain)
      (enabled_word hctx hs.blockInv.phase)⟩) n
  exact ⟨m, hm, isMain_iff_kind.mpr hk⟩

/-- The next main step is that of the point the main program stands at. -/
theorem exists_mainStep (n : Nat) :
    ∃ m b, n ≤ m ∧ w m = (mainPoint (st n)).word ∧ mainPoint (st (m + 1)) = (mainPoint (st n)).next b := by
  have hex := exists_isMain hfair h0 hr n
  obtain ⟨hm, hmain⟩ := Nat.find_spec hex
  generalize hfind : Nat.find hex = m at hm hmain
  have hpoint : mainPoint (st m) = mainPoint (st n) := by
    refine hfair.1.mainPoint_eq_of_no_main hr hm fun j hj hjm => ?_
    have hnot := Nat.find_min hex (hfind ▸ hjm)
    simpa [hj] using hnot
  obtain ⟨he, hst⟩ := hfair.1.enabled_and_eq m
  refine ⟨m, switchState (st m).cfg (st m).gpin, hm, ?_, ?_⟩
  · rw [eq_word_of_main he hmain, hpoint]
  · rw [hst, mainPoint_after_of_main he hmain, hpoint]

/-! ### The loop goes on for ever (R321) -/

/-- Each main step but a read leads nearer to the next read. -/
theorem exists_mlRead {n : Nat} (hcode : 14 ≤ (st n).mpc.code) : ∃ m, n ≤ m ∧ w m = .mlRead := by
  induction hd : (mainPoint (st n)).stepsToRead using Nat.strong_induction_on generalizing n with
  | _ d ih =>
    obtain ⟨m, b, hm, hword, hnext⟩ := exists_mainStep hfair h0 hr n
    by_cases hread : w m = .mlRead
    · exact ⟨m, hm, hread⟩
    have hlt : (mainPoint (st (m + 1))).stepsToRead < d := by
      rw [hnext, ← hd]
      exact MainPoint.stepsToRead_next_lt b hcode (hfair.1.reachable h0 n).blockInv.phase (hword ▸ hread)
    have hcode' := hfair.1.code_ge_of_afterSei hr hcode (show n ≤ m + 1 by omega)
    obtain ⟨k, hk, hread'⟩ := ih _ hlt hcode' rfl
    exact ⟨k, by omega, hread'⟩

omit hr in
theorem exists_latch (n : Nat) : ∃ m ff, n ≤ m ∧ w m = .ioLatch ff := by
  obtain ⟨m, hm, hk⟩ := hfair.2.1 .latch n fun m _ =>
    (hfair.1.reachable h0 m).kindEnabled (i := .ioLatch 0) rfl (decide_eq_true (Nat.two_pow_pos _)) rfl
  obtain ⟨ff, hff⟩ := exists_ioLatch_of_kind hk
  exact ⟨m, ff, hm, hff⟩

/-- Once a settled switch is latched, the latch shows it for good. -/
theorem switchState_of_settled {n m : Nat} {ff : Byte} {k : Contact} (hcode : 14 ≤ (st n).mpc.code)
    (hk : ∀ j, n ≤ j → (st j).swc = k) (hlatch : w n = .ioLatch ff) (hm : n < m) :
    switchState (st m).cfg (st m).gpin = decide (k = .openContact) := by
  have hlatched : ∀ j x, n ≤ j → w j = .ioLatch x →
      switchState (st (j + 1)).cfg (st (j + 1)).gpin = decide (k = .openContact) := by
    intro j x hj hx
    have hge := hfair.1.code_ge_of_afterSei hr hcode hj
    have hstep := hfair.1.steps j
    rw [hx] at hstep
    rw [switchState_of_latch (hfair.1.reachable h0 j) (by omega) hstep, hk j hj]
  induction m, hm using Nat.le_induction with
  | base => exact hlatched n ff le_rfl hlatch
  | succ m hm ih =>
    rcases (after_frame (st m) (hr m)).gpin with hkeep | ⟨x, hx⟩
    · obtain ⟨-, hst⟩ := hfair.1.enabled_and_eq m
      rw [hst, after_cfg, hkeep]
      exact ih
    · exact hlatched m x (by omega) hx

end

/-- Settles O60: the main step's strong fairness leads from every point of the loop to the next read, and the latch's
weak fairness to a latch that shows the settled contact to every later one. -/
theorem loopRunsForeverAndReadsASettledSwitch : Obligations.LoopRunsForeverAndReadsASettledSwitch := by
  intro st w hfair h0 hr ⟨n₀, hcode⟩
  have hafter : ∀ m, n₀ ≤ m → 14 ≤ (st m).mpc.code := fun m hm => hfair.1.code_ge_of_afterSei hr hcode hm
  refine ⟨fun n => ?_, fun k ⟨n, hk⟩ => ?_⟩
  · obtain ⟨m, hm, hread⟩ := exists_mlRead hfair h0 hr (hafter (max n n₀) (le_max_right n n₀))
    exact ⟨m, (le_max_left n n₀).trans hm, hread⟩
  · obtain ⟨l, ff, hl, hlatch⟩ := exists_latch hfair h0 (max n n₀)
    obtain ⟨hnl, hn₀l⟩ := max_le_iff.mp hl
    refine ⟨l + 1, fun m hm hread => ?_⟩
    obtain ⟨-, hst⟩ := hfair.1.enabled_and_eq m
    rw [hst, hread]
    exact switchState_of_settled hfair h0 hr (hafter l hn₀l) (fun j hj => hk j (hnl.trans hj)) hlatch hm

end Sys2Proof.Machine
end

section
/-! PROOF. The interrupt context (spec/60_exceptions.md): what entry, capture and return write (R350, R351, and
43_adc_sample_capture.md R240), the three steps it consists of (R352), and why interrupts do not nest (R354). -/

namespace Sys2Proof.Machine

/-! ### Entry, capture and return (R350, R351; 43_adc_sample_capture.md R240) -/

theorem atHandler_of_isr {s : State} {p : HandlerPhase} (hctx : s.ctx = .isr) (hp : s.ipc = p) :
    s.atHandler p = true :=
  (s.atHandler_iff p).mpr ⟨hctx, hp⟩

theorem after_isCapture_of_rightAligned {s : State} (h : s.alar = false) :
    after .isCapture s = s.raise .adcAlignmentUnmodelled := if_neg (by simp [h])

/-- Settles O21: where its guard holds each word makes its change, and the alignment decides between the two of
IS.CAPTURE. -/
theorem interruptEntryCaptureAndReturn : Obligations.InterruptEntryCaptureAndReturn := by
  intro s
  refine ⟨fun hctx hgie haie haif => ?_, fun hctx hp halar => ?_, fun hctx hp halar => ?_, fun hctx hp => ?_⟩
  · exact exec_of_enabled ((enabled_isEnter_iff s).mpr ⟨hctx, hgie, haie, haif⟩)
  · rw [exec_of_enabled (i := .isCapture) (atHandler_of_isr hctx hp), after_isCapture_of_leftAligned halar]
    rfl
  · rw [exec_of_enabled (i := .isCapture) (atHandler_of_isr hctx hp), after_isCapture_of_rightAligned halar]
    rfl
  · exact exec_of_enabled (atHandler_of_isr hctx hp)

/-! ### The interrupt context's steps (R352) -/

theorem exists_exec_next_iff {i : Instr} {s : State} : (∃ s', exec i s = .next s') ↔ enabled i s = true :=
  ⟨fun ⟨_, h⟩ => (exec_next h).1, fun h => ⟨_, exec_of_enabled h⟩⟩

theorem ctx_main_of_enabled_main {i : Instr} {s : State} (he : enabled i s = true) (hm : i.isMain = true) :
    s.ctx = .main := by
  cases i with
  | isEnter | isCapture | isReturn | tmTick | adDone v | ioLatch v | evSw v | rsPor v | rsWdt v | rsOth v => cases hm
  | mlCenter => exact ((enabled_mlCenter_iff s).mp he).1
  | mlMread => exact ((enabled_mlMread_iff s).mp he).1
  | mlSkip => exact ((enabled_mlSkip_iff s).mp he).1
  | _ => exact ((s.atPhase_iff _).mp he).1

theorem exec_noStep_of_not {i : Instr} {s : State} {g : Prop} (hi : enabled i s = true → g) (hg : ¬ g) :
    exec i s = .fault .noStep :=
  exec_of_disabled (Bool.eq_false_iff.mpr (mt hi hg))

/-- No guard of the timer, the converter, the port, the environment or the resets reads the context. -/
theorem enabled_with_ctx_of_other_agent {i : Instr} (s : State) (c : Context) (hm : i.isMain = false)
    (henter : i ≠ .isEnter) (hcapture : i ≠ .isCapture) (hreturn : i ≠ .isReturn) :
    enabled i { s with ctx := c } = enabled i s := by
  cases i with
  | isEnter => exact absurd rfl henter
  | isCapture => exact absurd rfl hcapture
  | isReturn => exact absurd rfl hreturn
  | tmTick | adDone v | ioLatch v | evSw v | rsPor v | rsWdt v | rsOth v => rfl
  | _ => cases hm

/-- The handler's body from its first phase: the result is copied and the main context resumed (R352). -/
theorem runTrace_handler {s : State} (hf : s.fault = none) (hr : s.refused = none) (hctx : s.ctx = .isr)
    (hp : s.ipc = .capture) (halar : s.alar = true) :
    runTrace [.isCapture, .isReturn] s =
      .next { s with sample := s.aresh, ipc := .ret, gie := true, ctx := .main } := by
  have hcapture : enabled .isCapture s = true := atHandler_of_isr hctx hp
  rw [runTrace_cons hcapture hf hr, after_isCapture_of_leftAligned halar]
  have hreturn : enabled .isReturn { s.writeSample s.aresh with ipc := .ret } = true := atHandler_of_isr hctx rfl
  rw [runTrace_cons hreturn hf hr]
  exact runTrace_nil hf hr

/-- Settles O55: the guards of the main program and of entry ask for the main context, those of the handler for its
phase, and no other guard reads the context; an entry is followed by the handler's body. -/
theorem interruptContextRunsItsThreeSteps : Obligations.InterruptContextRunsItsThreeSteps := by
  refine ⟨fun s hctx => ⟨fun i hm => ?_, ?_, fun hp => ?_, fun hp => ?_, fun i hm henter hcapture hreturn => ?_⟩,
    fun s hf hr hctx hgie haie haif halar => ?_⟩
  · exact exec_noStep_of_not (ctx_main_of_enabled_main · hm) (by simp [hctx])
  · exact exec_noStep_of_not (fun he => ((enabled_isEnter_iff s).mp he).1) (by simp [hctx])
  · exact ⟨⟨_, exec_of_enabled (atHandler_of_isr hctx hp)⟩,
      exec_noStep_of_not (fun he => ((s.atHandler_iff .ret).mp he).2) (by simp [hp])⟩
  · exact ⟨⟨_, exec_of_enabled (atHandler_of_isr hctx hp)⟩,
      exec_noStep_of_not (fun he => ((s.atHandler_iff .capture).mp he).2) (by simp [hp])⟩
  · rw [exists_exec_next_iff, exists_exec_next_iff, enabled_with_ctx_of_other_agent s .main hm henter hcapture hreturn]
  · have henter : enabled .isEnter s = true := (enabled_isEnter_iff s).mpr ⟨hctx, hgie, haie, haif⟩
    have hbody := runTrace_handler (s := s.enterInterrupt) hf hr rfl rfl halar
    have hend : { s.enterInterrupt with sample := s.aresh, ipc := .ret, gie := true, ctx := .main } =
        { s with aif := false, ipc := .ret, sample := s.aresh } := by
      rw [← hgie, ← hctx]
      rfl
    rw [runTrace_cons henter hf hr]
    exact hbody.trans (congrArg _ hend)

/-! ### No nesting (R354) -/

/-- Settles O56: the invariant has `gie` 0 in the handler and the converter free running, so a second conversion
overwrites the first one's result, and the return opens the way in to the request they leave. -/
theorem interruptsDoNotNest : Obligations.InterruptsDoNotNest := by
  intro s hs hctx
  have h := hs.blockInv
  have hcode := h.code_ge_of_isr hctx
  have hgie : s.gie = false := by simp [h.afterSei hcode, hctx]
  refine ⟨hgie, exec_isEnter_of_gie_eq_false hgie, fun v x hp => ?_⟩
  obtain ⟨-, -, halar⟩ := h.muxSet (by omega)
  obtain ⟨haen, harun, haate, haie, -⟩ := h.adcOn (by omega)
  have hconversions := (conversionWritesResultAndRaisesTheRequest s v haen harun).2 h.noFault hs.refused haate x
  have hbody := runTrace_handler (s := { s with aresh := x, aif := true, arun := true }) h.noFault hs.refused hctx hp
    halar
  refine ⟨_, runTrace_trans hconversions hbody, rfl, rfl, ?_⟩
  exact ⟨_, exec_of_enabled ((enabled_isEnter_iff _).mpr ⟨rfl, rfl, haie, rfl⟩), rfl⟩

end Sys2Proof.Machine
end

section
/-! PROOF. Reset, boot and traces (spec/70_reset_and_hazards.md): the reset words and the launch state (R401 to R405),
the boot order up to the loop (R407), and a trace as its operations in turn (R451). -/

namespace Sys2Proof.Machine

/-! ### The reset words (R401 to R405) -/

/-- Power-on leads from any unmarked state to a launch state (10_state.md R67). -/
theorem isLaunch_after_rsPor {s : State} (hc : s.cfg.wf = true) (hf : s.fault = none) (hr : s.refused = none)
    (v : Byte) : IsLaunch (after (.rsPor v) s) := by
  refine ⟨hc, ?_⟩
  simp [after, State.resetState, State.setRcf, State.setWatchdog, State.launch, hc, hf, hr, rcfPor]

/-- Settles O25: RS.POR and RS.OTH are always enabled and RS.WDT where the watchdog is armed; the open values of `sw`,
`t` and PREV are the draw's. -/
theorem resetWordsGiveTheResetState : Obligations.ResetWordsGiveTheResetState := fun s v =>
  ⟨s.draws + 1, Config.freeSw s.draws, Config.freePrev s.draws, Config.freeT s.draws,
    exec_of_enabled (i := .rsPor v) rfl,
    fun harmed => exec_of_enabled (i := .rsWdt v) harmed,
    exec_of_enabled (i := .rsOth v) rfl,
    fun hc hf hr => isLaunch_after_rsPor hc hf hr v⟩

/-! ### The boot order (R407) -/

theorem after_of_main {i : Instr} (s : State) (hm : i.isMain = true) :
    (after i s).fault = s.fault ∧ (after i s).refused = s.refused ∧ (after i s).ctx = s.ctx ∧
      (after i s).gpin = s.gpin := by
  cases i with
  | isEnter | isCapture | isReturn | tmTick | adDone v | ioLatch v | evSw v | rsPor v | rsWdt v | rsOth v => cases hm
  | _ => exact ⟨rfl, rfl, rfl, rfl⟩

theorem MainPoint.code_next_lt {p : MainPoint} (b : Bool) (h : p.mpc.code < 20) : (p.next b).mpc.code < 20 := by
  obtain ⟨mpc, sw, prev⟩ := p
  cases mpc with
  | unused k => exact h
  | decide => cases sw <;> simp [MainPoint.next, Phase.code]
  | _ => simp [MainPoint.next, Phase.code]

/-- The main program alone, with no word of another agent between, has all its steps: nothing else moves `mpc`, and what
its reads find does not change. -/
theorem runTrace_mainWords {s : State} (hf : s.fault = none) (hr : s.refused = none) (hctx : s.ctx = .main)
    (hcode : s.mpc.code < 20) (n : Nat) {is : List Instr}
    (his : mainWords (switchState s.cfg s.gpin) n (mainPoint s) = is) :
    runTrace is s = .next (is.foldl (fun u i => after i u) s) := by
  subst his
  induction n generalizing s with
  | zero => exact runTrace_nil hf hr
  | succ n ih =>
    have hm := (mainPoint s).word_isMain
    have he := enabled_word hctx hcode
    have hpoint := mainPoint_after_of_main he hm
    obtain ⟨hf', hr', hctx', hgpin⟩ := after_of_main s hm
    have hcode' := MainPoint.code_next_lt (p := mainPoint s) (switchState s.cfg s.gpin) hcode
    rw [← hpoint] at hcode'
    have hrest := ih (hf'.trans hf) (hr'.trans hr) (hctx'.trans hctx) hcode'
    rw [after_cfg, hgpin, hpoint] at hrest
    rw [mainWords, runTrace_cons he hf hr, hrest, List.foldl_cons]

/-- What the boot words write. IN.TCMP comes while the timer is not in PWM mode, so its value is in effect at once
(42_pwm_timer.md R190), and SU.WDOFF comes after the causes are cleared, so nothing locks the watchdog (40_startup.md
R142). -/
theorem foldl_after_boot {s : State} (hmode : s.tmode = 0) :
    boot.foldl (fun u i => after i u) s =
      { s with mpc := .read, gie := true, rcf := 0, wdtEn := false, clkdiv := s.cfg.clkDivCfg
               tmode := 1, tcom := 1, tcs := 1, tie := 0, tcnt := 0, ttop := s.cfg.pwmTop, toc := true
               tcmp := centerByte s.cfg, tcmpa := centerByte s.cfg
               aref := s.cfg.adcRef, ach := s.cfg.adcCh, alar := true, aps := s.cfg.adcPs
               aen := true, arun := true, aate := true, aie := true
               gdir := bit s.cfg.pwmPin, gpue := bit s.cfg.swPin, gout := 0, prev := false } := by
  simp [boot, after, State.goto, State.setGie, State.setRcf, State.setWatchdog, State.writeCmp, State.writePrev,
    State.wdtLocked, State.wdtCause, State.cmpHeld, tmodePwmTop, tcomNoninv, tcsRunning, hmode]

/-- Settles O58: the boot words are the main program's first sixteen from SU_CLI, and what IN.TCNT0, IN.TIRQ and IN.GPUE
clear is 0 at launch already. -/
theorem bootReachesTheLoop : Obligations.BootReachesTheLoop := by
  intro s h
  have hr := h.refused
  obtain ⟨-, hs⟩ := h
  have hf : s.fault = none := by rw [hs]; rfl
  have hctx : s.ctx = .main := by rw [hs]; rfl
  have hmpc : s.mpc = .suCli := by rw [hs]; rfl
  have hmode : s.tmode = 0 := by rw [hs]; rfl
  have hcleared : s.tcnt = 0 ∧ s.tie = 0 ∧ s.gout = 0 := by rw [hs]; exact ⟨rfl, rfl, rfl⟩
  obtain ⟨htcnt, htie, hgout⟩ := hcleared
  have hwords : mainWords (switchState s.cfg s.gpin) 16 (mainPoint s) = boot := by
    rw [mainPoint, hmpc]
    rfl
  rw [runTrace_mainWords hf hr hctx (by simp [hmpc, Phase.code]) 16 hwords, foldl_after_boot hmode, htcnt, htie, hgout]
  rfl

/-! ### A trace as its operations in turn (R451) -/

/-- An outcome with its state's trace replaced. -/
def withTrace (ws : List Word) : Result → Result
  | .next s => .next { s with trace := ws }
  | .fault r => .fault r
  | .refused r => .refused r

/-- No operation reads the words still to be taken. -/
theorem after_with_trace (i : Instr) (s : State) (ws : List Word) :
    after i { s with trace := ws } = { after i s with trace := ws } := by
  cases i with
  | isCapture | tmTick | ioLatch ff | evSw b =>
    simp only [after, apply_ite (fun e : State => { e with trace := ws })]
    rfl
  | _ => rfl

/-- No guard reads the words still to be taken. -/
theorem enabled_with_trace (i : Instr) (s : State) (ws : List Word) :
    enabled i { s with trace := ws } = enabled i s := by
  cases i <;> rfl

theorem exec_with_trace (i : Instr) (s : State) (ws : List Word) :
    exec i { s with trace := ws } = withTrace ws (exec i s) := by
  cases he : enabled i s with
  | true => rw [exec_of_enabled he, exec_of_enabled ((enabled_with_trace i s ws).trans he), after_with_trace, withTrace]
  | false => rw [exec_of_disabled he, exec_of_disabled ((enabled_with_trace i s ws).trans he), withTrace]

theorem takeWord_with_trace (i : Instr) (s : State) (ws : List Word) :
    takeWord i { s with trace := ws } = withTrace ws (takeWord i s) := by
  rw [takeWord, exec_with_trace, takeWord, whenUnmarked, whenUnmarked]
  cases s.fault <;> cases s.refused <;> rfl

/-- A step on an encoded word is its operation, on the state without the word; a mark stops both alike. -/
theorem step_of_trace_cons {i : Instr} {s : State} {ws : List Word} (hc : s.cfg.wf = true)
    (hw : i.wf s.cfg.nPins = true) (ht : s.trace = encode i :: ws) : step s = takeWord i { s with trace := ws } := by
  have hword : runWord (encode i) { s with trace := ws } = exec i { s with trace := ws } := runWord_encode hw
  rw [step, if_pos hc, nextWord_of_cons ht, hword]
  rfl

theorem runSteps_eq_takeWords {is : List Instr} {s : State} {rest : List Word} (hc : s.cfg.wf = true)
    (hw : ∀ i ∈ is, i.wf s.cfg.nPins = true) (ht : s.trace = is.map encode ++ rest) :
    runSteps is.length s = takeWords is { s with trace := rest } := by
  induction is generalizing s with
  | nil =>
    subst ht
    rfl
  | cons i is ih =>
    have hstep : step s = takeWord i { s with trace := is.map encode ++ rest } :=
      step_of_trace_cons hc (hw i List.mem_cons_self) ht
    have hword : takeWord i { s with trace := rest } = withTrace rest (step s) := by
      rw [hstep, ← takeWord_with_trace]
    rw [List.length_cons, runSteps, takeWords, hword]
    cases h : step s with
    | next m =>
      obtain ⟨-, -, -, rfl⟩ := takeWord_next (hstep.symm.trans h)
      rw [withTrace]
      refine ih ?_ (fun j hj => ?_) (after_trace i _)
      · rwa [after_cfg]
      · rw [after_cfg]
        exact hw j (List.mem_cons_of_mem _ hj)
    | fault r | refused r => rfl

theorem runSteps_succ {k : Nat} {s e : State} :
    runSteps (k + 1) s = .next e ↔ ∃ m, step s = .next m ∧ runSteps k m = .next e := by
  rw [runSteps]
  cases step s <;> simp

/-- A refusal mark is never cleared by a step (10_state.md R61). -/
theorem refused_eq_none_of_runSteps {k : Nat} {s e : State} (h : runSteps k s = .next e) (he : e.refused = none) :
    s.refused = none := by
  cases k with
  | zero =>
    injection h with h
    rwa [h]
  | succ k =>
    obtain ⟨m, hm, -⟩ := runSteps_succ.mp h
    exact (step_next hm).2.1

/-- A word that refuses leaves a mark, and so does any word under a configuration that is not well-formed. -/
theorem decode_ok_of_runSteps {ws : List Word} {s e : State} (ht : s.trace = ws) (h : runSteps ws.length s = .next e)
    (he : e.refused = none) : ∀ w ∈ ws, ∃ i, decode s.cfg.nPins w = .ok i := by
  induction ws generalizing s with
  | nil => exact List.forall_mem_nil _
  | cons w ws ih =>
    obtain ⟨m, hm, hrest⟩ := runSteps_succ.mp h
    have hunmarked := refused_eq_none_of_runSteps hrest he
    obtain ⟨-, -, ⟨-, rfl⟩ | ⟨-, r, rfl⟩ | ⟨-, i, hd, -, rfl⟩⟩ := step_next hm
    · cases hunmarked
    · cases hunmarked
    · rw [nextWord_of_cons ht] at hd hrest
      have hdecode := ih (after_trace i _) hrest
      rw [after_cfg] at hdecode
      exact List.forall_mem_cons.mpr ⟨⟨i, hd⟩, hdecode⟩

theorem takeWords_append_of_next {is : List Instr} (js : List Instr) {s m : State} (h : takeWords is s = .next m) :
    takeWords (is ++ js) s = takeWords js m := by
  induction is generalizing s with
  | nil =>
    injection h with h
    rw [h, List.nil_append]
  | cons i is ih =>
    obtain ⟨n, hn, h⟩ := takeWords_cons.mp h
    rw [List.cons_append, takeWords, hn]
    exact ih h

/-- Settles O8: each step is its word's operation (`runSteps_eq_takeWords`), and a trace stops at the first word that
refuses or is not enabled. -/
theorem runOfATraceTakesItsOperationsInTurn : Obligations.RunOfATraceTakesItsOperationsInTurn := by
  refine ⟨fun is s rest hc hw ht => ?_, fun is s hc hw => ?_, fun ws s e h => ?_, fun is js i s m h hi => ?_⟩
  · have hsteps := runSteps_eq_takeWords hc hw ht
    exact ⟨hsteps, fun e => by rw [hsteps, runTrace_next]⟩
  · have hsteps := runSteps_eq_takeWords (s := { s with trace := is.map encode }) hc hw (List.append_nil _).symm
    rw [runWords, List.length_map, hsteps, runTrace]
  · obtain ⟨hsteps, hf, hr⟩ := runWords_next.mp h
    exact ⟨hf, hr, decode_ok_of_runSteps (s := { s with trace := ws }) rfl hsteps hr⟩
  · obtain ⟨htake, hf, hr⟩ := runTrace_next.mp h
    rw [runTrace, takeWords_append_of_next _ htake, takeWords, takeWord_of_unmarked hf hr, exec_of_disabled hi,
      endState_fault]

end Sys2Proof.Machine
end
